-- ==== Sys2Proof/Config.lean ====
section
/-! DEFINITION. The parameters of the block (00_scope.md R4), each with the value this hardware takes.
The alphabet, which R5 lets a model take as an argument, is the constant table of Machine/Tables.lean
(notes/assumptions/12.md). The spec leaves no result open, so there is no free value here. -/

namespace Sys2Proof.Config

/-- `IDW`: width in bits of the identifier and of the decoded value (R4). -/
abbrev idWidth : Nat := 64

/-- `DIGW`: bits per digit (R4). -/
abbrev digitWidth : Nat := 6

/-- `NALPHA`: number of alphabet characters (R4). -/
abbrev alphabetSize : Nat := 64

/-- `MAXLEN`: greatest string length, and the size of every buffer (R4, R47). -/
abbrev maxLen : Nat := 11

/-- `NREV`: number of entries of the reverse table (R4). -/
abbrev revSize : Nat := 256

/-- `CHARW`: bits per character (R4). -/
abbrev charWidth : Nat := 8

/-- `LENW`: width of every length and position field (R4). -/
abbrev lenWidth : Nat := 4

/-- `CMDW`: width of the command word (R4). -/
abbrev cmdWidth : Nat := 93

/-- `SENTINEL`: the reverse table's mark for a byte that is no alphabet character (R4, R43). -/
abbrev sentinel : BitVec 8 := 0xFF#8

end Sys2Proof.Config
end

