-- ==== Sys2Proof/Word.lean ====
section
/-! DEFINITION. The word types of the block, with the widths of 00_scope.md R4. All integers are
unsigned and bit 0 is the least significant bit (R6). -/

namespace Sys2Proof

/-- One character: one byte (R4 `CHARW`). -/
abbrev Byte := BitVec 8

/-- An identifier or a decoded value (R4 `IDW`). -/
abbrev Ident := BitVec 64

/-- A 6-bit digit, an index of the alphabet table (R4 `DIGW`, R40). -/
abbrev Digit := BitVec 6

/-- A length or a position (R4 `LENW`). -/
abbrev Len := BitVec 4

/-- A command word `cmd[92:0]` (R60). -/
abbrev CmdWord := BitVec 93

/-- Eleven characters packed into one field, character 0 in the most significant byte (R62, R71). -/
abbrev StrField := BitVec 88

/-- A string buffer: eleven bytes, index 0 the first character (R47, R48). -/
abbrev Buffer := Vector Byte 11

end Sys2Proof
end

