-- ==== Sys2Proof/Syntax.lean ====
section
/-! DEFINITION. The commands of the block: one constructor per row of spec/opcode_table.json
(30_encoding.md R60, R64). The fields are those of the formats `E` (R61) and `D` (R62); the ignored
bits of format `E` are kept, so that a command and its word carry the same information
(notes/assumptions/11.md). -/

namespace Sys2Proof

/-- A command (R60). -/
inductive Instr where
  /-- `ENCODE`, format `E` (R61): `ignored = cmd[91:64]` has no effect (R65), `id = cmd[63:0]`. -/
  | encode (ignored : BitVec 28) (id : Ident)
  /-- `DECODE`, format `D` (R62): `slen = cmd[91:88]`, and the eleven characters of `cmd[87:0]`. -/
  | decode (slen : Len) (str : Buffer)
deriving DecidableEq, Repr

end Sys2Proof
end

