-- ==== Sys2Proof/WellFormed.lean ====
section
/-! DEFINITION. What the spec asks of a term before its meaning applies. A command is asked nothing:
"Illegal encodings: none" (30_encoding.md R65), and every width is in the type. The alphabet is asked
what 00_scope.md R5 lists, one check each. -/

namespace Sys2Proof

/-- Every command is well formed: "Illegal encodings: none" (R65). -/
def Instr.wellFormed : Instr → Bool
  | .encode _ _ => true
  | .decode _ _ => true

/-- R65's recommendation to a HOST, not a rule: the ignored bits are driven to zero. The bytes of a
`DECODE` are ignored at index `slen` and above, and all of them when the length is invalid. -/
def Instr.ignoredBitsZero : Instr → Bool
  | .encode ignored _ => ignored == 0
  | .decode slen str =>
    (List.range 11).all fun k =>
      str[k]?.getD 0 == 0 || (slen.toNat ≤ 11 && k < slen.toNat)

/-- R5, first condition: exactly 64 entries. -/
def alphabetSizeOk (table : List Byte) : Bool := table.length == Config.alphabetSize

/-- R5, second condition: the entries are pairwise distinct. -/
def alphabetDistinct (table : List Byte) : Bool := decide table.Nodup

/-- R5, third condition: every entry is printable ASCII, the range 0x20 to 0x7E. -/
def alphabetPrintable (table : List Byte) : Bool :=
  table.all fun b => 0x20#8 ≤ b && b ≤ 0x7E#8

/-- R5: no entry equals the sentinel. -/
def alphabetAvoidsSentinel (table : List Byte) : Bool := table.all (· != Config.sentinel)

/-- An alphabet the codec can be built for (R5). -/
def alphabetOk (table : List Byte) : Bool :=
  alphabetSizeOk table && alphabetDistinct table && alphabetPrintable table &&
    alphabetAvoidsSentinel table

end Sys2Proof
end

