-- ==== Sys2Proof/Decode.lean ====
section
/-! DEFINITION. Decoding a command word, and the encoder, both from the field tables of
30_encoding.md R61, R62 and R64; with the packing of eleven characters into an 88-bit field (R48
item 5, R62, R71). A decoder tests one bit, `cmd[92]`; every 93-bit word is a command (R64, R65). -/

namespace Sys2Proof

/-- The buffer whose byte at index `k` is `f k`. -/
def bufferOf (f : Nat → Byte) : Buffer :=
  #v[f 0, f 1, f 2, f 3, f 4, f 5, f 6, f 7, f 8, f 9, f 10]

/-- Character `k` of a packed field: bits `[87-8k : 80-8k]` (R48 item 5, R62). -/
def fieldChar (field : StrField) (k : Nat) : Byte := field.extractLsb' (80 - 8 * k) 8

/-- The eleven characters of a packed field (R62). -/
def unpackChars (field : StrField) : Buffer := bufferOf (fieldChar field)

/-- Eleven characters in one field, character 0 in the most significant byte (R48 item 5, R71). -/
def packChars (str : Buffer) : StrField :=
  str[0] ++ str[1] ++ str[2] ++ str[3] ++ str[4] ++ str[5] ++ str[6] ++ str[7] ++ str[8] ++
    str[9] ++ str[10]

/-- The opcode bit `cmd[92]`: clear selects `ENCODE`, set selects `DECODE` (R60, R64). -/
def opcodeBit (cmd : CmdWord) : Bool := cmd.getLsbD 92

/-- The command a word stands for (R61, R62, R64). -/
def decodeWord (cmd : CmdWord) : Instr :=
  match opcodeBit cmd with
  | false => .encode (cmd.extractLsb' 64 28) (cmd.extractLsb' 0 64)
  | true => .decode (cmd.extractLsb' 88 4) (unpackChars (cmd.extractLsb' 0 88))

/-- The word of a command: opcode bit, then the fields of R61 or R62 from the top down. -/
def encodeWord : Instr → CmdWord
  | .encode ignored id => 0#1 ++ ignored ++ id
  | .decode slen str => 1#1 ++ slen ++ packChars str

/-- Why a number presented as a command is turned away before it is a command. -/
inductive DecodeError where
  /-- The number needs more than the 93 bits of a command word (R60, R6); notes/assumptions/7.md. -/
  | wordTooWide
deriving DecidableEq, Repr

/-- Decoding of a number of any size: a number of at most 93 bits is a command word (R60, R64), a
wider one is none. -/
def decodeNumber (w : Nat) : Except DecodeError Instr :=
  if w < 2 ^ Config.cmdWidth then .ok (decodeWord (BitVec.ofNat 93 w)) else .error .wordTooWide

/-- The number that `bytes` stand for as the 24 hexadecimal digits of R6 read, first byte most
significant: the way the spec writes a command word. -/
def numberOfBytes (bytes : List Byte) : Nat := bytes.foldl (fun n b => n * 256 + b.toNat) 0

/-- Decoding of any list of bytes, a command word written out in full, first byte most significant. -/
def decodeBytes (bytes : List Byte) : Except DecodeError Instr := decodeNumber (numberOfBytes bytes)

/-- The twelve bytes of a command word, first byte most significant (R6: 24 hexadecimal digits). -/
def encodeBytes (i : Instr) : List Byte :=
  (List.range 12).map fun k => ((encodeWord i).zeroExtend 96).extractLsb' (88 - 8 * k) 8

/-- The command read from an instruction whose low `nbits` bits are those of `w` and whose other bits
are zero, numbered as spec/opcode_table.json numbers them. The block's command is one word, so the
number is the word (R60). -/
def decodeTableWord (nbits w : Nat) : Option Instr :=
  match decodeNumber (w % 2 ^ nbits) with
  | .ok i => some i
  | .error _ => none

end Sys2Proof
end

