-- ==== Sys2Proof/Machine/State.lean ====
section
/-! DEFINITION. The state of the block: every register, flag and buffer of 10_state.md R10 under its
own name, with the reset values of R33; and, as plain data, what the outside does: the HOST's command
port (30_encoding.md R70) and the schedule of turns (00_scope.md R8, R9; 70_reset_and_hazards.md
R149). The tables `ALPHA` and `REV` are constants and no state (R34, R46). -/

namespace Sys2Proof.Machine

/-- The two causes of `InvalidShiny` (60_exceptions.md R120). -/
inductive ShinyError where
  /-- Cause 1, `LEN`: the length is 0 or above 11. -/
  | length
  /-- Cause 2, `CHAR`: a byte of the string is no alphabet character. -/
  | character
deriving DecidableEq, Repr

/-- One turn: what happens next, and by which agent (00_scope.md R8, R9; 70_reset_and_hazards.md
R149). The interleaving and the HOST's moves are the block's only freedom (R9). -/
inductive Move where
  /-- The HOST takes the `RESET` step (R140). -/
  | reset
  /-- The HOST presents `cmd` with `cmd_valid = 1`, or changes the word it presents (R149). -/
  | present (cmd : CmdWord)
  /-- The HOST withdraws the presented word (R149). -/
  | withdraw
  /-- The accept step `E-ACCEPT` or `D-ACCEPT`, if the presented word can be accepted (R70). -/
  | accept
  /-- Unit `ENC` takes its enabled step, if it has one (R9). -/
  | enc
  /-- Unit `DEC` takes its enabled step, if it has one (R9). -/
  | dec
  /-- `WAIT E`: the HOST takes no step until `e_done = 1` (R67). -/
  | waitEnc
  /-- `WAIT D`: the HOST takes no step until `d_done = 1` (R67). -/
  | waitDec
deriving DecidableEq, Repr

/-- The state of the block and of what stands at its ports (R10, R70). -/
@[ext]
structure State where
  /-- Encoder status: a command is in progress (R16). -/
  e_busy : Bool
  /-- Encoder status: `e_len` and `e_str` hold a result (R16). -/
  e_done : Bool
  /-- The encoder's working copy of the identifier (R11). -/
  e_id : Ident
  /-- The fill pointer of `e_buf`: index of the last slot written, 11 when none is (R12). -/
  e_pos : Len
  /-- The encoder's working buffer, filled from slot 10 downward (R13). -/
  e_buf : Buffer
  /-- The length of the result string (R14). -/
  e_len : Len
  /-- The result string, first character at index 0, padded with 0x00 (R15). -/
  e_str : Buffer
  /-- Decoder status: a command is in progress (R25). -/
  d_busy : Bool
  /-- Decoder status: `d_val`, `d_err`, `d_cause` hold an outcome (R25). -/
  d_done : Bool
  /-- The error flag, `InvalidShiny` (R26). -/
  d_err : Bool
  /-- The error cause; `none` is code 0 (R26, and 93_implementation_defined.md V4). -/
  d_cause : Option ShinyError
  /-- The length field of the command in progress (R20). -/
  d_len : Len
  /-- The characters of the string being decoded (R21). -/
  d_in : Buffer
  /-- Index of the next character to look up (R22). -/
  d_pos : Len
  /-- The accumulator (R23). -/
  d_acc : Ident
  /-- The decoded value (R24). -/
  d_val : Ident
  /-- The HOST's inputs `cmd_valid` and `cmd` (R70): `none` is `cmd_valid = 0`. The model's own field. -/
  cmd_port : Option CmdWord
  /-- The turns to come, the next one first (R8, R9, R149). The model's own field. -/
  schedule : List Move
deriving DecidableEq, Repr

/-- Why the machine stops. The spec's own error, `InvalidShiny`, is no fault (R148). -/
inductive Fault where
  /-- Raised by `E-DIGIT` and `E-FINISH` when the pointer `e_pos` names a slot `e_buf` does not have
  (R40: indices 0 to 10). No reachable state does so (R12, R84), and the spec gives such states no
  behaviour (93_implementation_defined.md V5). Safe. -/
  | bufferIndexOutOfRange
deriving DecidableEq, Repr

/-- Why a command has no meaning here. -/
inductive Refusal where
  /-- Raised by a dispatch arm whose command has no meaning yet; no arm is left so. Safe. -/
  | notModelled (mnemonic : String)
deriving DecidableEq, Repr

/-- An outcome of the block. -/
abbrev Outcome := Host.Outcome State Fault Refusal

/-- The buffer of eleven bytes 0x00 (R33). -/
def zeroBuffer : Buffer := #v[0, 0, 0, 0, 0, 0, 0, 0, 0, 0, 0]

/-- The state after `RESET` (R33): all zero but `e_pos = 11`; nothing presented and no turn laid down. -/
def State.reset : State where
  e_busy := false
  e_done := false
  e_id := 0
  e_pos := 11
  e_buf := zeroBuffer
  e_len := 0
  e_str := zeroBuffer
  d_busy := false
  d_done := false
  d_err := false
  d_cause := none
  d_len := 0
  d_in := zeroBuffer
  d_pos := 0
  d_acc := 0
  d_val := 0
  cmd_port := none
  schedule := []

end Sys2Proof.Machine
end

