-- ==== Sys2Proof/Machine/Tables.lean ====
section
/-! DEFINITION. The two constant look-up tables: `ALPHA` (20_memory.md R41) and `REV`, which is derived
from `ALPHA` and from nothing else (R43, R44). No step writes them (R46). The byte values are the
ASCII codes the spec supplies from general knowledge (93_implementation_defined.md G1;
notes/assumptions/5.md). -/

namespace Sys2Proof.Machine

/-- `ALPHA[0..15]`: `A` to `P` (R41). -/
def alphaRows0 : List Byte :=
  [0x41, 0x42, 0x43, 0x44, 0x45, 0x46, 0x47, 0x48, 0x49, 0x4A, 0x4B, 0x4C, 0x4D, 0x4E, 0x4F, 0x50]

/-- `ALPHA[16..31]`: `Q` to `Z`, then `a` to `f` (R41). -/
def alphaRows16 : List Byte :=
  [0x51, 0x52, 0x53, 0x54, 0x55, 0x56, 0x57, 0x58, 0x59, 0x5A, 0x61, 0x62, 0x63, 0x64, 0x65, 0x66]

/-- `ALPHA[32..47]`: `g` to `v` (R41). -/
def alphaRows32 : List Byte :=
  [0x67, 0x68, 0x69, 0x6A, 0x6B, 0x6C, 0x6D, 0x6E, 0x6F, 0x70, 0x71, 0x72, 0x73, 0x74, 0x75, 0x76]

/-- `ALPHA[48..63]`: `w` to `z`, `0` to `9`, `-`, `_` (R41). -/
def alphaRows48 : List Byte :=
  [0x77, 0x78, 0x79, 0x7A, 0x30, 0x31, 0x32, 0x33, 0x34, 0x35, 0x36, 0x37, 0x38, 0x39, 0x2D, 0x5F]

/-- The canonical alphabet in index order (R41). -/
def alphaTable : List Byte := alphaRows0 ++ alphaRows16 ++ alphaRows32 ++ alphaRows48

/-- `ALPHA[d]` (R41). The index is a 6-bit field, so it is always one of the 64 entries (R40). -/
def alpha (d : Digit) : Byte := alphaTable.getD d.toNat 0

/-- The reverse table of an alphabet (R44): the index of the entry equal to `b`, or the sentinel. -/
def revOf (table : List Byte) (b : Byte) : Byte :=
  match table.findIdx? (· == b) with
  | some i => BitVec.ofNat 8 i
  | none => Config.sentinel

/-- `REV[b]` (R43, R44). -/
def rev (b : Byte) : Byte := revOf alphaTable b

/-- The byte belongs to the alphabet: its `REV` entry is not the sentinel (R43). -/
def isAlphaChar (b : Byte) : Bool := rev b != Config.sentinel

/-- The 6-bit digit of an alphabet character, `REV[b][5:0]` (R43, R103). -/
def digitOfChar (b : Byte) : Digit := (rev b).extractLsb' 0 6

end Sys2Proof.Machine
end

