-- ==== Sys2Proof/Machine/Ops.lean ====
section
/-! DEFINITION. The named operations over the registers and buffers: one byte of a buffer (20_memory.md
R47, R49), the two digit operations (40_encode.md R88, 41_decode.md R104), `raise InvalidShiny`
(60_exceptions.md R123) with the clearing that leaves the error (R125), and `RESET`
(70_reset_and_hazards.md R140). Each update of State is one atomic step: every right-hand side reads
the state before it (00_scope.md R7). -/

namespace Sys2Proof.Machine

/-- Byte `k` of a buffer; every index a step forms is 0 to 10 (R40). -/
def readByte (buf : Buffer) (k : Nat) : Byte := buf[k]?.getD 0

/-- The buffer with byte `k` replaced (R7, `e_buf[i] <- v`). -/
def writeByte (buf : Buffer) (k : Nat) (v : Byte) : Buffer := buf.setIfInBounds k v

/-- The low digit of an identifier, `id[5:0]`, which is `id & 0x3F` (R82, R88). -/
def lowDigit (id : Ident) : Digit := id.extractLsb' 0 6

/-- The identifier without its low digit, `id >> 6` (R82, R88). -/
def dropDigit (id : Ident) : Ident := id >>> 6

/-- The accumulate step, `(acc << 6)[63:0] | zext_64(digit)` (R103, R104). -/
def foldDigit (acc : Ident) (digit : Digit) : Ident := (acc <<< 6) ||| digit.zeroExtend 64

/-- `raise InvalidShiny(cause)`: the one atomic update of an error completion (R123). -/
def State.raiseInvalidShiny (cause : ShinyError) (s : State) : State :=
  { s with
    d_err := true
    d_cause := some cause
    d_val := 0
    d_acc := 0
    d_busy := false
    d_done := true }

/-- What clears an outcome of unit `DEC`, an error among them: the part of `D-ACCEPT` that is the only
return from the error there is (R101, R125). -/
def State.clearOutcome (s : State) : State :=
  { s with
    d_val := 0
    d_err := false
    d_cause := none
    d_done := false }

/-- `RESET`: every register, flag and buffer takes its reset value (R33, R140). What the HOST presents
and the turns to come are the HOST's, and stay (notes/assumptions/10.md). -/
def State.resetRegisters (s : State) : State :=
  { State.reset with
    cmd_port := s.cmd_port
    schedule := s.schedule }

/-- The state with another presented word, or with none (R70, R149). -/
def State.withPort (port : Option CmdWord) (s : State) : State := { s with cmd_port := port }

/-- The state with other turns to come. -/
def State.withSchedule (turns : List Move) (s : State) : State := { s with schedule := turns }

end Sys2Proof.Machine
end

