-- ==== Sys2Proof/Machine/Flags.lean ====
section
/-! DEFINITION. The conditions behind the flags and status bits: what makes a length or a character
invalid (60_exceptions.md R120), the code of a cause (10_state.md R26), and the guards of the unit
steps (00_scope.md R9). The block has no arithmetic flag (R26). -/

namespace Sys2Proof.Machine

/-- Cause 1: the length is 0 or above 11 (R102, R120). -/
def lengthInvalid (len : Len) : Bool := len == 0 || 11 < len

/-- Cause 2: the byte's `REV` entry is the sentinel (R103, R120). -/
def charInvalid (b : Byte) : Bool := rev b == Config.sentinel

/-- The two bits of `d_cause`: 0 none, 1 length, 2 character (R26, R29). -/
def causeCode : Option ShinyError → BitVec 2
  | none => 0
  | some .length => 1
  | some .character => 2

/-- `E-DIGIT` is enabled (R82). -/
def State.digitEnabled (s : State) : Bool := s.e_busy && (s.e_id != 0 || s.e_pos == 11)

/-- `E-FINISH` is enabled (R83). -/
def State.encFinishEnabled (s : State) : Bool := s.e_busy && (s.e_id == 0 && s.e_pos != 11)

/-- `D-LENFAIL` is enabled (R102). -/
def State.lenFailEnabled (s : State) : Bool := s.d_busy && lengthInvalid s.d_len

/-- `D-CHAR` is enabled (R103). -/
def State.charEnabled (s : State) : Bool :=
  s.d_busy && (!lengthInvalid s.d_len && s.d_pos < s.d_len)

/-- `D-FINISH` is enabled (R105). -/
def State.decFinishEnabled (s : State) : Bool :=
  s.d_busy && (!lengthInvalid s.d_len && s.d_pos == s.d_len)

/-- Unit `ENC` has an enabled step (R9). -/
def State.encEnabled (s : State) : Bool := s.digitEnabled || s.encFinishEnabled

/-- Unit `DEC` has an enabled step (R9). -/
def State.decEnabled (s : State) : Bool :=
  s.lenFailEnabled || s.charEnabled || s.decFinishEnabled

end Sys2Proof.Machine
end

