-- ==== Sys2Proof/Machine/Operands.lean ====
section
/-! DEFINITION. How a HOST forms a command from the operands of `encode` and `decode`, and how it reads
a result (30_encoding.md R63). The fields of a command word are taken apart in Decode.lean. -/

namespace Sys2Proof.Machine

/-- The length field of a string of `n` bytes, `min(n, 15)` (R63). -/
def lengthField (n : Nat) : Len := BitVec.ofNat 4 (min n 15)

/-- The string field of a string: its first eleven bytes, and where it has none whatever the HOST
drives there, `fill` (R63, R65). -/
def stringField (fill : Buffer) (str : List Byte) : Buffer :=
  bufferOf fun k => str.getD k (readByte fill k)

/-- The `ENCODE` command of an identifier, its ignored bits zero (R63, R65). -/
def encodeCommand (id : Ident) : Instr := .encode 0 id

/-- The `DECODE` command of a string (R63). -/
def decodeCommand (fill : Buffer) (str : List Byte) : Instr :=
  .decode (lengthField str.length) (stringField fill str)

/-- The bytes of a string of `len` characters held in a buffer: `buf[0]` to `buf[len - 1]` (R63). -/
def stringOf (len : Len) (buf : Buffer) : List Byte := (List.range len.toNat).map (readByte buf)

/-- The string result of `ENCODE`: the `e_len` bytes of `e_str` (R63). -/
def State.encodedString (s : State) : List Byte := stringOf s.e_len s.e_str

end Sys2Proof.Machine
end

