-- ==== Sys2Proof/Machine/Decoder.lean ====
section
/-! DEFINITION. Unit `DEC`: the meaning of `DECODE`, which is the accept step `D-ACCEPT` (41_decode.md
R101), and the unit's own steps `D-LENFAIL` (R102), `D-CHAR` (R103) and `D-FINISH` (R105). -/

namespace Sys2Proof.Machine

/-- The registers `D-ACCEPT` writes (R101): the operands, cleared working registers, and the outcome of
the last command cleared (R125). -/
def State.decAccept (slen : Len) (str : Buffer) (s : State) : State :=
  { s.clearOutcome with
    d_len := slen
    d_in := str
    d_pos := 0
    d_acc := 0
    d_busy := true }

/-- The byte `D-CHAR` looks up, `d_in[d_pos]` (R103). -/
def State.nextChar (s : State) : Byte := readByte s.d_in s.d_pos.toNat

/-- The registers the succeeding arm of `D-CHAR` writes (R103, R104). -/
def State.foldChar (s : State) : State :=
  { s with
    d_acc := foldDigit s.d_acc (digitOfChar s.nextChar)
    d_pos := s.d_pos + 1 }

/-- The registers `D-FINISH` writes (R105). -/
def State.publishValue (s : State) : State :=
  { s with
    d_val := s.d_acc
    d_err := false
    d_cause := none
    d_busy := false
    d_done := true }

/-- `D-CHAR` (R103): fold the digit in, or fail. -/
def decChar (s : State) : State :=
  if charInvalid s.nextChar then s.raiseInvalidShiny .character else s.foldChar

/-- A turn of unit `DEC`: its one enabled step, or none (R9). The length is checked first (R122). -/
def decStep (s : State) : State :=
  if s.lenFailEnabled then s.raiseInvalidShiny .length
  else if s.charEnabled then decChar s
  else if s.decFinishEnabled then s.publishValue
  else s

/-- `DECODE`: `D-ACCEPT` when the unit is not busy (R101). When it is, no accept step is enabled: the
command is "neither queued nor dropped nor an error" (30_encoding.md R70). The unit's own steps then
carry the command out (R107, R108). -/
def execDecode (slen : Len) (str : Buffer) (s : State) : Outcome :=
  if s.d_busy then .next s else .next (s.decAccept slen str)

end Sys2Proof.Machine
end

