-- ==== Sys2Proof/Machine/Encoder.lean ====
section
/-! DEFINITION. Unit `ENC`: the meaning of `ENCODE`, which is the accept step `E-ACCEPT` (40_encode.md
R81), and the unit's own steps `E-DIGIT` (R82) and `E-FINISH` (R83). -/

namespace Sys2Proof.Machine

/-- The registers `E-ACCEPT` writes (R81). -/
def State.encAccept (id : Ident) (s : State) : State :=
  { s with
    e_id := id
    e_pos := 11
    e_buf := zeroBuffer
    e_len := 0
    e_str := zeroBuffer
    e_done := false
    e_busy := true }

/-- The registers `E-DIGIT` writes: one character, back to front (R82). -/
def State.putDigit (s : State) : State :=
  { s with
    e_buf := writeByte s.e_buf (s.e_pos - 1).toNat (alpha (lowDigit s.e_id))
    e_pos := s.e_pos - 1
    e_id := dropDigit s.e_id }

/-- The used suffix of a buffer moved to index 0 and padded with 0x00: byte `k` is `buf[pos + k]` for
`k < 11 - pos` (R83). -/
def usedSuffix (buf : Buffer) (pos : Nat) : Buffer :=
  bufferOf fun k => if k < 11 - pos then readByte buf (pos + k) else 0

/-- The registers `E-FINISH` writes (R83). -/
def State.publishString (s : State) : State :=
  { s with
    e_len := 11 - s.e_pos
    e_str := usedSuffix s.e_buf s.e_pos.toNat
    e_busy := false
    e_done := true }

/-- `E-DIGIT` (R82). The slot `e_buf[e_pos - 1]` exists when `e_pos` is 1 to 11. -/
def encDigit (s : State) : Outcome :=
  if 1 ≤ s.e_pos ∧ s.e_pos ≤ 11 then .next s.putDigit else .fault .bufferIndexOutOfRange

/-- `E-FINISH` (R83). The slots from `e_pos` up exist when `e_pos` is at most 11. -/
def encFinish (s : State) : Outcome :=
  if s.e_pos ≤ 11 then .next s.publishString else .fault .bufferIndexOutOfRange

/-- A turn of unit `ENC`: its one enabled step, or none (R9). -/
def encStep (s : State) : Outcome :=
  if s.digitEnabled then encDigit s
  else if s.encFinishEnabled then encFinish s
  else .next s

/-- `ENCODE`: `E-ACCEPT` when the unit is not busy (R81). When it is, no accept step is enabled: the
command is "neither queued nor dropped nor an error" (30_encoding.md R70). The unit's own steps then
carry the command out (R84, R86). -/
def execEncode (_ignored : BitVec 28) (id : Ident) (s : State) : Outcome :=
  if s.e_busy then .next s else .next (s.encAccept id)

end Sys2Proof.Machine
end

