-- ==== Sys2Proof/Machine/Dispatch.lean ====
section
/-! DEFINITION. The meaning of each command, one arm per row of spec/opcode_table.json. -/

namespace Sys2Proof.Machine

def exec (i : Instr) (s : State) : Host.Outcome State Fault Refusal :=
  match i with
  -- ENCODE: 40_encode.md R81
  | .encode ignored id => Sys2Proof.Machine.execEncode ignored id s
  -- DECODE: 41_decode.md R101
  | .decode slen str => Sys2Proof.Machine.execDecode slen str s

end Sys2Proof.Machine
end

