-- ==== Sys2Proof/Machine/Ports.lean ====
section
/-! DEFINITION. What the HOST sees: `cmd_ready` (30_encoding.md R70) and the result ports (R71). The
ports show State; reading them changes nothing (20_memory.md R50). -/

namespace Sys2Proof.Machine

/-- `cmd_ready` for a presented word: the unit its opcode bit selects is not busy (R70). -/
def cmdReady (cmd : CmdWord) (s : State) : Bool :=
  match opcodeBit cmd with
  | false => !s.e_busy
  | true => !s.d_busy

/-- The result ports (R71). -/
structure Ports where
  enc_busy : Bool
  enc_done : Bool
  enc_len : Len
  enc_str : StrField
  dec_busy : Bool
  dec_done : Bool
  dec_err : Bool
  dec_cause : BitVec 2
  dec_val : Ident
deriving DecidableEq, Repr

/-- The ports in a state (R71): all that the HOST can read of it (70_reset_and_hazards.md R149). -/
def State.ports (s : State) : Ports where
  enc_busy := s.e_busy
  enc_done := s.e_done
  enc_len := s.e_len
  enc_str := packChars s.e_str
  dec_busy := s.d_busy
  dec_done := s.d_done
  dec_err := s.d_err
  dec_cause := causeCode s.d_cause
  dec_val := s.d_val

/-- The `DECODE` word a HOST makes of a result of `ENCODE`: `enc_len` in `cmd[91:88]` and `enc_str` in
`cmd[87:0]`, without rearrangement (R71). -/
def Ports.decodeWord (p : Ports) : CmdWord := 1#1 ++ p.enc_len ++ p.enc_str

end Sys2Proof.Machine
end

