-- ==== Sys2Proof/Machine/Moves.lean ====
section
/-! DEFINITION. The turns of the agents (00_scope.md R8, R9; 70_reset_and_hazards.md R149): the next
turn is the first of `schedule`. When none is laid down the block goes on by itself, so that a unit
with an enabled step takes it (R150); that order is the model's (notes/assumptions/3.md). A turn of an
agent with no enabled step changes nothing but the schedule. -/

namespace Sys2Proof.Machine

/-- The presented word can be accepted: `cmd_valid = 1` and `cmd_ready = 1` (R70). -/
def State.acceptable (s : State) : Bool :=
  match s.cmd_port with
  | none => false
  | some cmd => cmdReady cmd s

/-- The state in which a presented word is carried out: an accepted word is taken off the port, one
that is not stays presented (R70; notes/assumptions/4.md). -/
def State.takeWord (s : State) : State := if s.acceptable then s.withPort none else s

/-- The accept turn: the presented word is decoded and its meaning runs (R70). -/
def acceptStep (s : State) : Outcome :=
  match s.cmd_port with
  | none => .next s
  | some cmd => exec (decodeWord cmd) s.takeWord

/-- A turn in which the HOST does nothing: unit `ENC` takes its step, or else unit `DEC` its own. -/
def unitTurn (s : State) : Outcome :=
  if s.encEnabled then encStep s else .next (decStep s)

/-- The turn when none is laid down: an acceptable word is accepted, else the units go on. -/
def freeTurn (s : State) : Outcome :=
  if s.acceptable then acceptStep s else unitTurn s

/-- A `WAIT` line: over when the awaited flag is set, else the HOST takes no step and the units go on
(R67). `rest` is what follows the line. -/
def waitTurn (ready : Bool) (rest : List Move) (s : State) : Outcome :=
  if ready then .next (s.withSchedule rest) else unitTurn s

/-- The turn `m`, the first of the schedule, with `rest` after it. -/
def takeTurn (m : Move) (rest : List Move) (s : State) : Outcome :=
  match m with
  | .reset => .next (s.withSchedule rest).resetRegisters
  | .present cmd => .next ((s.withSchedule rest).withPort (some cmd))
  | .withdraw => .next ((s.withSchedule rest).withPort none)
  | .accept => acceptStep (s.withSchedule rest)
  | .enc => encStep (s.withSchedule rest)
  | .dec => .next (decStep (s.withSchedule rest))
  | .waitEnc => waitTurn s.e_done rest s
  | .waitDec => waitTurn s.d_done rest s

/-- One step of the block and its surroundings. -/
def advance (s : State) : Outcome :=
  match s.schedule with
  | [] => freeTurn s
  | m :: rest => takeTurn m rest s

/-- The state in which the HOST presents `cmd` and the next turn is the accept turn. -/
def State.presenting (cmd : CmdWord) (s : State) : State :=
  (s.withPort (some cmd)).withSchedule (.accept :: s.schedule)

end Sys2Proof.Machine
end

