-- ==== Sys2Proof/Machine/Step.lean ====
section
/-! DEFINITION. The step function, and how a command is put where the next step takes it. -/

namespace Sys2Proof.Machine

/-- One step: the next turn of the schedule (00_scope.md R9). -/
def step (s : State) : Host.Outcome State Fault Refusal := advance s

/-- The state in which the HOST presents the command word whose low `nbits` bits are those of `w`, and
the next turn accepts it (30_encoding.md R70; notes/assumptions/6.md). The port has 93 bits (R60). -/
def State.withFetchWord (s : State) (nbits w : Nat) : State :=
  s.presenting (BitVec.ofNat 93 (w % 2 ^ nbits))

end Sys2Proof.Machine
end

