-- ==== Sys2Proof/Machine/Clock.lean ====
section
/-! DEFINITION. The one clock binding 30_encoding.md R72 describes, as a function derived from the
steps. The machine does not use it: "No rule depends on this binding, and a model must not assume it"
(R72; notes/assumptions/15.md). -/

namespace Sys2Proof.Machine

/-- The presented word is an `ENCODE` and unit `ENC` is free to accept it (R70). -/
def State.acceptsEncode (s : State) : Bool :=
  match s.cmd_port with
  | none => false
  | some cmd => !opcodeBit cmd && !s.e_busy

/-- The presented word is a `DECODE` and unit `DEC` is free to accept it (R70). -/
def State.acceptsDecode (s : State) : Bool :=
  match s.cmd_port with
  | none => false
  | some cmd => opcodeBit cmd && !s.d_busy

/-- What unit `ENC` does at an edge: the accept step counts as its step (R72). -/
def State.encEdgeTurn (s : State) : Move := if s.acceptsEncode then .accept else .enc

/-- What unit `DEC` does at an edge: the accept step counts as its step (R72). -/
def State.decEdgeTurn (s : State) : Move := if s.acceptsDecode then .accept else .dec

/-- Two turns, one after the other. -/
def twoTurns (first second : Move) (s : State) : Outcome :=
  match takeTurn first s.schedule s with
  | .next t => takeTurn second t.schedule t
  | .fault r => .fault r
  | .refused r => .refused r

/-- A rising edge of `clk` (R72): `RESET` when `rst` is set; otherwise each unit takes its one enabled
step, if it has one, both in the same edge. -/
def clockEdge (rst : Bool) (s : State) : Outcome :=
  if rst then takeTurn .reset s.schedule s else twoTurns s.encEdgeTurn s.decEdgeTurn s

end Sys2Proof.Machine
end

