-- ==== Sys2Proof/Machine/Script.lean ====
section
/-! DEFINITION. The script lines of 30_encoding.md R67, a HOST's program, as turns of the schedule. The
lines are taken as syntax, not as text. Between two lines the units may take any number of their own
steps: turns `enc` and `dec` put between those of two lines. -/

namespace Sys2Proof.Machine

/-- A script line (R67). -/
inductive ScriptLine where
  /-- `ENC <id>`: issue `ENCODE`. -/
  | enc (id : Ident)
  /-- `DEC "<string>"`: issue `DECODE` with the string presented as R63 says. -/
  | dec (str : List Byte)
  /-- `DEC.RAW <slen> <b0> ... <b10>`: issue `DECODE` with the fields given. -/
  | decRaw (slen : Len) (str : Buffer)
  /-- `WAIT E`. -/
  | waitE
  /-- `WAIT D`. -/
  | waitD
  /-- `RESET`. -/
  | reset
deriving DecidableEq, Repr

/-- The turns of issuing a command: the HOST presents its word, and the accept step takes it. -/
def issueTurns (i : Instr) : List Move := [.present (encodeWord i), .accept]

/-- The turns of a line (R67). The bytes `DEC` leaves open are zero, as R65 recommends. -/
def ScriptLine.turns : ScriptLine → List Move
  | .enc id => issueTurns (encodeCommand id)
  | .dec str => issueTurns (decodeCommand zeroBuffer str)
  | .decRaw slen str => issueTurns (.decode slen str)
  | .waitE => [.waitEnc]
  | .waitD => [.waitDec]
  | .reset => [.reset]

/-- The turns of a script, one line after the other. -/
def scriptTurns (script : List ScriptLine) : List Move := script.flatMap ScriptLine.turns

/-- The state in which a HOST is about to run a script. -/
def State.withScript (script : List ScriptLine) (s : State) : State :=
  s.withSchedule (scriptTurns script)

end Sys2Proof.Machine
end

