-- ==== Sys2Proof/Machine/Results.lean ====
section
/-! DEFINITION. The two result functions, the big-step reading of the commands: `encode` (40_encode.md
R80) and `decode` (41_decode.md R100). They are written from those rules alone and share with the
steps only the tables and the accumulate operation. -/

namespace Sys2Proof.Machine

/-- The number of digits of an identifier: the least `n` in 1 to 11 with `id < 64^n` (R80). -/
def digitCount (id : Ident) : Nat :=
  ((List.range' 1 11).find? fun n => decide (id.toNat < 64 ^ n)).getD 11

/-- Character `k` of the `n` digits of an identifier: `ALPHA[(id >> (6 * (n-1-k)))[5:0]]` (R80). -/
def digitChar (id : Ident) (n k : Nat) : Byte := alpha (lowDigit (id >>> (6 * (n - 1 - k))))

/-- What `ENCODE` yields: a length and a buffer padded with 0x00 (R80). -/
structure EncodeResult where
  /-- The length, 1 to 11. -/
  len : Len
  /-- The characters, the most significant digit first. -/
  str : Buffer
deriving DecidableEq, Repr

/-- `encode(id)` (R80). -/
def encodeResult (id : Ident) : EncodeResult where
  len := BitVec.ofNat 4 (digitCount id)
  str := bufferOf fun k => if k < digitCount id then digitChar id (digitCount id) k else 0

/-- What `DECODE` yields (R100). -/
inductive DecodeResult where
  /-- `Ok(value)`. -/
  | ok (value : Ident)
  /-- `InvalidShiny(cause)`, with no value. -/
  | invalidShiny (cause : ShinyError)
deriving DecidableEq, Repr

/-- The fold over the first `n` characters, left to right (R100). -/
def foldChars (str : Buffer) (n : Nat) : Ident :=
  (List.range n).foldl (fun value k => foldDigit value (digitOfChar (readByte str k))) 0

/-- Check 2 of `decode`: some character of the first `n` is outside the alphabet (R100). -/
def anyCharInvalid (str : Buffer) (n : Nat) : Bool :=
  (List.range n).any fun k => charInvalid (readByte str k)

/-- `decode(slen, s)` (R100): the length check, the character check, then the fold. -/
def decodeResult (slen : Len) (str : Buffer) : DecodeResult :=
  if lengthInvalid slen then .invalidShiny .length
  else if anyCharInvalid str slen.toNat then .invalidShiny .character
  else .ok (foldChars str slen.toNat)

/-- The error flag, cause and value that show a result of `DECODE` (R100, R108). -/
def DecodeResult.outcome : DecodeResult → Bool × Option ShinyError × Ident
  | .ok value => (false, none, value)
  | .invalidShiny cause => (true, some cause, 0)

/-- The document's `decode` on a string of any length (41_decode.md, the operation's text): the value
of the digits modulo `2^64`, or the error, the length checked first. -/
def decodeString (str : List Byte) : DecodeResult :=
  if str.length = 0 ∨ 11 < str.length then .invalidShiny .length
  else if str.any charInvalid then .invalidShiny .character
  else .ok (str.foldl (fun value b => foldDigit value (digitOfChar b)) 0)

/-- The unit steps of `DEC` that a command takes after its accept (R107): one length failure; or the
characters up to and including the first invalid one; or all of them and the finish. -/
def decodeSteps (slen : Len) (str : Buffer) : Nat :=
  if lengthInvalid slen then 1
  else ((List.range slen.toNat).find? fun k => charInvalid (readByte str k)).getD slen.toNat + 1

end Sys2Proof.Machine
end

