-- ==== Sys2Proof/Safety.lean ====
section
/-! DEFINITION. What claims are stated in terms of: the invariants of the units (10_state.md R17, R27),
quiescence (70_reset_and_hazards.md R148), which part of State belongs to which agent (20_memory.md
R52), which turns leave a command alone and which may accept one (70_reset_and_hazards.md R149), and
canonical strings (41_decode.md R106). -/

namespace Sys2Proof.Machine

/-- The digit at place `p` of an identifier, place 0 the least significant. -/
def digitAt (id : Ident) (p : Nat) : Digit := lowDigit (id >>> (6 * p))

/-- A command `ENCODE id0` in progress: what unit `ENC` holds between two of its steps (R17 items 2 and
3). `minimal` says that no digit beyond the first is a leading zero digit, which R17 leaves to R84. -/
structure EncWorking (id0 : Ident) (s : State) : Prop where
  rest : s.e_id = id0 >>> (6 * (11 - s.e_pos.toNat))
  filled : ∀ k, s.e_pos.toNat ≤ k → k < 11 → readByte s.e_buf k = alpha (digitAt id0 (10 - k))
  clear : ∀ k, k < s.e_pos.toNat → readByte s.e_buf k = 0
  minimal : s.e_pos.toNat < 10 → id0 >>> (6 * (10 - s.e_pos.toNat)) ≠ 0

/-- The invariant of unit `ENC` (R12, R14 to R17). -/
structure EncInv (s : State) : Prop where
  pos_le : s.e_pos.toNat ≤ 11
  exclusive : ¬(s.e_busy = true ∧ s.e_done = true)
  working : s.e_busy = true → ∃ id0, EncWorking id0 s
  result : s.e_done = true → ∃ id0, encodeResult id0 = ⟨s.e_len, s.e_str⟩
  blank : s.e_done = false → s.e_len = 0 ∧ s.e_str = zeroBuffer

/-- The invariant of unit `DEC` (R22 to R27). -/
structure DecInv (s : State) : Prop where
  exclusive : ¬(s.d_busy = true ∧ s.d_done = true)
  error : s.d_err = true → s.d_done = true ∧ s.d_cause ≠ none ∧ s.d_val = 0
  noError : s.d_err = false → s.d_cause = none
  blank : s.d_done = false → s.d_val = 0
  started : s.d_busy = true → lengthInvalid s.d_len = true → s.d_pos = 0 ∧ s.d_acc = 0
  folded : s.d_busy = true → lengthInvalid s.d_len = false →
    s.d_pos ≤ s.d_len ∧ (∀ k, k < s.d_pos.toNat → isAlphaChar (readByte s.d_in k) = true) ∧
      s.d_acc = foldChars s.d_in s.d_pos.toNat
  result : s.d_done = true →
    (s.d_err, s.d_cause, s.d_val) = (decodeResult s.d_len s.d_in).outcome

/-- The invariant of the block: those of its two units. -/
structure Inv (s : State) : Prop where
  enc : EncInv s
  dec : DecInv s

/-- No unit is busy: only the HOST can move (R148). -/
def State.quiescent (s : State) : Bool := !s.e_busy && !s.d_busy

/-- The two states agree on all that unit `ENC` owns (R10, R52). -/
structure SameEnc (s t : State) : Prop where
  e_busy : s.e_busy = t.e_busy
  e_done : s.e_done = t.e_done
  e_id : s.e_id = t.e_id
  e_pos : s.e_pos = t.e_pos
  e_buf : s.e_buf = t.e_buf
  e_len : s.e_len = t.e_len
  e_str : s.e_str = t.e_str

/-- The two states agree on all that unit `DEC` owns (R10, R52). -/
structure SameDec (s t : State) : Prop where
  d_busy : s.d_busy = t.d_busy
  d_done : s.d_done = t.d_done
  d_err : s.d_err = t.d_err
  d_cause : s.d_cause = t.d_cause
  d_len : s.d_len = t.d_len
  d_in : s.d_in = t.d_in
  d_pos : s.d_pos = t.d_pos
  d_acc : s.d_acc = t.d_acc
  d_val : s.d_val = t.d_val

/-- The two states agree on the characters a `DECODE` of length `slen` reads: those below `slen`, and
none when the length is invalid (R65). -/
def SameReadChars (slen : Len) (a b : Buffer) : Prop :=
  lengthInvalid slen = false → ∀ k, k < slen.toNat → readByte a k = readByte b k

/-- The two states differ at most in characters that the `DECODE` in progress ignores (R65). -/
structure SameButIgnored (s t : State) : Prop where
  chars : SameReadChars s.d_len s.d_in t.d_in
  others : t = { s with d_in := t.d_in }

/-- A turn that neither applies `RESET` nor lets the HOST wait: what R149 assumes of the HOST while a
command is in progress, with turns that each take one step. -/
def Move.leavesCommands : Move → Bool
  | .reset => false
  | .waitEnc => false
  | .waitDec => false
  | .present _ => true
  | .withdraw => true
  | .accept => true
  | .enc => true
  | .dec => true

/-- The next step is an accept turn: one laid down, or the first choice when none is (R9, R70;
notes/assumptions/3.md). -/
def State.acceptTurnNext (s : State) : Bool :=
  match s.schedule with
  | [] => true
  | m :: _ => m == .accept

/-- A turn of a unit. -/
def Move.isUnitTurn : Move → Bool
  | .enc => true
  | .dec => true
  | .reset => false
  | .present _ => false
  | .withdraw => false
  | .accept => false
  | .waitEnc => false
  | .waitDec => false

/-- A string `DECODE` reads back as the encoder would have written it: no leading zero digit unless it
is one character, and at most 15 in the first of eleven digits (R106). -/
def canonicalString (slen : Len) (str : Buffer) : Prop :=
  (slen = 1 ∨ digitOfChar (readByte str 0) ≠ 0) ∧
    (slen = 11 → digitOfChar (readByte str 0) ≤ 15)

/-- The first formulation the document offers (R90): the characters of an identifier, least significant
first, one at least, until the shifted identifier is zero. -/
def charsLeastFirst : Nat → Ident → List Byte
  | 0, _ => []
  | fuel + 1, id =>
    alpha (lowDigit id) :: if dropDigit id = 0 then [] else charsLeastFirst fuel (dropDigit id)

/-- `k` steps of the block, stopping at a fault. -/
def runSteps : Nat → State → Outcome
  | 0, s => .next s
  | k + 1, s =>
    match step s with
    | .next t => runSteps k t
    | .fault r => .fault r
    | .refused r => .refused r

/-- The value of the first `n` characters of a buffer as digits in base 64, before any wrapping. -/
def positionalValue (str : Buffer) (n : Nat) : Nat :=
  ((List.range n).map fun k => (digitOfChar (readByte str k)).toNat * 64 ^ (n - 1 - k)).sum

end Sys2Proof.Machine
end

