-- ==== Sys2Proof/Certificates/Slice0/Obligations.lean ====
section
/-! DEFINITION. What is claimed of the model: one Prop per claim, from the numbered rules of spec/. A
docstring names the rule or section it formalises, and the log entry where a clause is the model's own
choice. -/

open Sys2Proof Sys2Proof.Machine

/-! ### Encoding of commands -/

/-- 30_encoding.md section 7: some of its worked encodings, read by the decoder. The bytes of their
characters are the ASCII codes of log entry 5. -/
def Obligations.WrittenOutWordsDecode : Prop :=
  decodeTableWord 96 0x0000000000000000000001F4 = some (.encode 0 500) ∧
  decodeTableWord 96 0x0ABCDEF100000000000001F4 = some (.encode 0xABCDEF1 500) ∧
  decodeTableWord 96 0x00000000FFFFFFFFFFFFFFFF = some (.encode 0 0xFFFFFFFFFFFFFFFF) ∧
  decodeTableWord 96 0x134353660000000000000000 =
    some (.decode 3 #v[0x43, 0x53, 0x66, 0, 0, 0, 0, 0, 0, 0, 0]) ∧
  decodeTableWord 96 0x1C4141414141414141414141 =
    some (.decode 12 #v[0x41, 0x41, 0x41, 0x41, 0x41, 0x41, 0x41, 0x41, 0x41, 0x41, 0x41]) ∧
  decodeTableWord 96 0x14315F245F00000000000000 =
    some (.decode 4 #v[0x31, 0x5F, 0x24, 0x5F, 0, 0, 0, 0, 0, 0, 0])

/-- Decode and encode agree on every command and every operand: as a word, as the number of the word,
and as its twelve bytes written out (30_encoding.md sections 1 and 3). -/
def Obligations.DecodingAnEncodedCommandGivesItBack : Prop :=
  ∀ i : Instr,
    decodeWord (encodeWord i) = i ∧
    decodeNumber (encodeWord i).toNat = .ok i ∧
    decodeBytes (encodeBytes i) = .ok i

/-- No bit of a word is dropped: a word is the encoding of the command it decodes to (30_encoding.md
sections 1 and 3; the ignored bits stay in the command, log entry 11). -/
def Obligations.EncodingADecodedWordGivesItBack : Prop :=
  ∀ cmd : CmdWord, encodeWord (decodeWord cmd) = cmd

/-- R64: the opcode map. Every word matches exactly one of the two rows, and the row gives the command
and its fields. -/
def Obligations.OpcodeMapSelectsByMatchAndMask : Prop :=
  ∀ cmd : CmdWord,
    (cmd &&& 0x100000000000000000000000#93 = 0 →
      decodeWord cmd = .encode (cmd.extractLsb 91 64) (cmd.extractLsb 63 0)) ∧
    (cmd &&& 0x100000000000000000000000#93 = 0x100000000000000000000000#93 →
      ∃ str, decodeWord cmd = .decode (cmd.extractLsb 91 88) str ∧
        packChars str = cmd.extractLsb 87 0) ∧
    Xor (cmd &&& 0x100000000000000000000000#93 = 0)
      (cmd &&& 0x100000000000000000000000#93 = 0x100000000000000000000000#93)

/-- R61 and R62, bit by bit: where each field of a command stands in its word. The 28 ignored bits of
format `E` have no effect. -/
def Obligations.FieldsStandWhereTheFormatsSay : Prop :=
  (∀ cmd : CmdWord, cmd.getLsbD 92 = false → ∃ ignored id, decodeWord cmd = .encode ignored id ∧
    (∀ i, i < 28 → ignored.getLsbD i = cmd.getLsbD (64 + i)) ∧
    (∀ i, i < 64 → id.getLsbD i = cmd.getLsbD i)) ∧
  (∀ (a b : BitVec 28) (id : Ident) (s : State), exec (.encode a id) s = exec (.encode b id) s) ∧
  (∀ cmd : CmdWord, cmd.getLsbD 92 = true → ∃ slen str, decodeWord cmd = .decode slen str ∧
    (∀ i, i < 4 → slen.getLsbD i = cmd.getLsbD (88 + i)) ∧
    (∀ k i, k ≤ 10 → i < 8 →
      (readByte str k).getLsbD i = cmd.getLsbD (80 - 8 * k + i)))

/-- 30_encoding.md section 1: a command word has 93 bits. A number that fits is the word of exactly one
command; a wider one is rejected by name, which is the model's choice (log entry 7). -/
def Obligations.OnlyNumbersOf93BitsAreCommands : Prop :=
  ∀ w : Nat,
    (w < 2 ^ 93 → ∃ i, decodeNumber w = .ok i ∧ (encodeWord i).toNat = w) ∧
    (2 ^ 93 ≤ w → decodeNumber w = .error .wordTooWide)

/-- 30_encoding.md section 2: presenting a string of any length, whatever stands in the bytes past it,
loses nothing: the command has the outcome the document gives the string. -/
def Obligations.PresentedStringHasTheOutcomeOfTheString : Prop :=
  ∀ (fill : Buffer) (str : List Byte), ∃ slen buf,
    decodeCommand fill str = .decode slen buf ∧ slen.toNat = min str.length 15 ∧
    decodeResult slen buf = decodeString str

/-! ### The step and the command port -/

/-- A step runs the decoded command (30_encoding.md section 6): at an accept turn with a word presented,
the step is the meaning of the command the word decodes to, with the turn used up and an accepted word
taken off the port. The last is the model's choice (log entry 4). -/
def Obligations.AcceptTurnRunsThePresentedCommand : Prop :=
  ∀ (s : State) (cmd : CmdWord) (rest : List Move),
    s.cmd_port = some cmd → s.schedule = .accept :: rest →
    (cmdReady cmd s = true →
      step s = exec (decodeWord cmd) { s with cmd_port := none, schedule := rest }) ∧
    (cmdReady cmd s = false →
      step s = exec (decodeWord cmd) { s with schedule := rest })

/-- How a command comes to run (log entry 6): with both units free, the step after a word is put on the
port runs the command the table's number decodes to. -/
def Obligations.PlacedWordRunsAsTheNextStep : Prop :=
  ∀ (s : State) (nbits w : Nat) (i : Instr), decodeTableWord nbits w = some i →
    s.e_busy = false → s.d_busy = false →
    step (s.withFetchWord nbits w) = exec i { s with cmd_port := none }

/-- 30_encoding.md section 6: `cmd_ready` follows the opcode bit; a command for a busy unit is not
accepted, and is neither queued nor dropped nor an error: nothing changes, and the word stays
presented. -/
def Obligations.CommandForABusyUnitWaits : Prop :=
  (∀ (cmd : CmdWord) (s : State),
    cmdReady cmd s = if cmd.getLsbD 92 then !s.d_busy else !s.e_busy) ∧
  (∀ (ignored : BitVec 28) (id : Ident) (s : State), s.e_busy = true →
    exec (.encode ignored id) s = .next s) ∧
  (∀ (slen : Len) (str : Buffer) (s : State), s.d_busy = true →
    exec (.decode slen str) s = .next s) ∧
  (∀ (s : State) (cmd : CmdWord) (rest : List Move), s.cmd_port = some cmd →
    s.schedule = .accept :: rest → cmdReady cmd s = false →
    step s = .next { s with schedule := rest })

/-- 70_reset_and_hazards.md section 3: presenting, changing or withdrawing a word has no effect by
itself. That such a move is a turn of its own is the model's choice (log entry 2). -/
def Obligations.PresentingAWordHasNoEffectByItself : Prop :=
  ∀ (s : State) (rest : List Move),
    (∀ cmd, s.schedule = .present cmd :: rest →
      step s = .next { s with cmd_port := some cmd, schedule := rest }) ∧
    (s.schedule = .withdraw :: rest →
      step s = .next { s with cmd_port := none, schedule := rest })

/-- 30_encoding.md section 5, `WAIT E` and `WAIT D`: the HOST takes no step until the flag is set, and
the units go on meanwhile: a step that does not end the wait leaves schedule and port alone. That a
wait is a turn is the model's choice (log entry 14). -/
def Obligations.WaitEndsWhenTheFlagIsSet : Prop :=
  ∀ (s : State) (rest : List Move),
    (s.schedule = .waitEnc :: rest → s.e_done = true → step s = .next { s with schedule := rest }) ∧
    (s.schedule = .waitDec :: rest → s.d_done = true → step s = .next { s with schedule := rest }) ∧
    (∀ t, s.schedule = .waitEnc :: rest → s.e_done = false → step s = .next t →
      t.schedule = s.schedule ∧ t.cmd_port = s.cmd_port) ∧
    (∀ t, s.schedule = .waitDec :: rest → s.d_done = false → step s = .next t →
      t.schedule = s.schedule ∧ t.cmd_port = s.cmd_port)

/-- With no turn laid down the block goes on by itself, in an order that is the model's choice (log
entry 3): an acceptable word is accepted, else unit `ENC` takes its step, else unit `DEC` its own, and
with none enabled nothing changes. -/
def Obligations.FreeRunningOrder : Prop :=
  ∀ s : State, s.schedule = [] →
    (∀ cmd, s.cmd_port = some cmd → cmdReady cmd s = true →
      step s = exec (decodeWord cmd) { s with cmd_port := none }) ∧
    (s.acceptable = false → s.encEnabled = true →
      step s = step { s with schedule := [.enc] }) ∧
    (s.acceptable = false → s.encEnabled = false →
      step s = step { s with schedule := [.dec] }) ∧
    (s.acceptable = false → s.encEnabled = false → s.decEnabled = false → step s = .next s)

/-! ### The commands and the steps of the units -/

/-- R81: what `E-ACCEPT` writes; all else is unchanged. -/
def Obligations.EncodeIsAcceptedByAnIdleEncoder : Prop :=
  ∀ (ignored : BitVec 28) (id : Ident) (s : State), s.e_busy = false →
    exec (.encode ignored id) s = .next
      { s with
        e_id := id
        e_pos := 11
        e_buf := #v[0, 0, 0, 0, 0, 0, 0, 0, 0, 0, 0]
        e_len := 0
        e_str := #v[0, 0, 0, 0, 0, 0, 0, 0, 0, 0, 0]
        e_done := false
        e_busy := true }

/-- R101: what `D-ACCEPT` writes; all else is unchanged. -/
def Obligations.DecodeIsAcceptedByAnIdleDecoder : Prop :=
  ∀ (slen : Len) (str : Buffer) (s : State), s.d_busy = false →
    exec (.decode slen str) s = .next
      { s with
        d_len := slen
        d_in := str
        d_pos := 0
        d_acc := 0
        d_val := 0
        d_err := false
        d_cause := none
        d_done := false
        d_busy := true }

/-- R82: `E-DIGIT`. The premise `EncInv` gives what R82 says of the pointer, that `e_pos - 1` never
underflows; every register the rule does not name is unchanged. -/
def Obligations.DigitStepStoresOneCharacter : Prop :=
  ∀ (s : State) (rest : List Move), s.schedule = .enc :: rest → EncInv s →
    s.e_busy = true → (s.e_id ≠ 0 ∨ s.e_pos = 11) →
    1 ≤ s.e_pos.toNat ∧
    ∃ buf : Buffer,
      readByte buf (s.e_pos.toNat - 1) = alpha (s.e_id.extractLsb 5 0) ∧
      (∀ k, k ≠ s.e_pos.toNat - 1 → readByte buf k = readByte s.e_buf k) ∧
      step s = .next
        { s with
          e_buf := buf
          e_pos := s.e_pos - 1
          e_id := s.e_id >>> 6
          schedule := rest }

/-- R83: `E-FINISH`; every register the rule does not name is unchanged. -/
def Obligations.FinishStepPublishesTheUsedSuffix : Prop :=
  ∀ (s : State) (rest : List Move), s.schedule = .enc :: rest →
    s.e_pos.toNat ≤ 11 → s.e_busy = true → s.e_id = 0 → s.e_pos ≠ 11 →
    ∃ (n : Len) (str : Buffer),
      n.toNat = 11 - s.e_pos.toNat ∧ 1 ≤ n.toNat ∧
      (∀ k, k < n.toNat → readByte str k = readByte s.e_buf (s.e_pos.toNat + k)) ∧
      (∀ k, n.toNat ≤ k → k ≤ 10 → readByte str k = 0x00) ∧
      step s = .next
        { s with
          e_len := n
          e_str := str
          e_busy := false
          e_done := true
          schedule := rest }

/-- The one stop of the model (log entry 8): a pointer outside the buffer, which no reachable state has,
gets no behaviour in the spec (93_implementation_defined.md section 2). -/
def Obligations.PointerOutsideTheBufferStops : Prop :=
  ∀ (s : State) (rest : List Move), s.schedule = .enc :: rest → s.e_busy = true →
    (12 ≤ s.e_pos.toNat ∨ (s.e_pos = 0 ∧ s.e_id ≠ 0)) →
    step s = .fault .bufferIndexOutOfRange

/-- R102: `D-LENFAIL`; every register the rule does not name is unchanged, and no other step of the unit
is enabled with it. -/
def Obligations.InvalidLengthFailsTheDecode : Prop :=
  ∀ (s : State) (rest : List Move), s.schedule = .dec :: rest →
    s.d_busy = true → (s.d_len = 0 ∨ 11 < s.d_len.toNat) →
    s.charEnabled = false ∧ s.decFinishEnabled = false ∧
    (DecInv s → s.d_pos = 0 ∧ s.d_acc = 0) ∧
    step s = .next
      { s with
        d_err := true
        d_cause := some .length
        d_val := 0
        d_acc := 0
        d_busy := false
        d_done := true
        schedule := rest }

/-- R103: `D-CHAR`, both arms; every register the rule does not name is unchanged. -/
def Obligations.CharacterStepFoldsOrFails : Prop :=
  ∀ (s : State) (rest : List Move), s.schedule = .dec :: rest →
    s.d_busy = true → 1 ≤ s.d_len.toNat → s.d_len.toNat ≤ 11 → s.d_pos.toNat < s.d_len.toNat →
    (rev (readByte s.d_in s.d_pos.toNat) = 0xFF →
      step s = .next
        { s with
          d_err := true
          d_cause := some .character
          d_val := 0
          d_acc := 0
          d_busy := false
          d_done := true
          schedule := rest }) ∧
    (rev (readByte s.d_in s.d_pos.toNat) ≠ 0xFF →
      (rev (readByte s.d_in s.d_pos.toNat)).toNat ≤ 0x3F ∧
      step s = .next
        { s with
          d_acc := (s.d_acc <<< 6) |||
            ((rev (readByte s.d_in s.d_pos.toNat)).extractLsb 5 0).zeroExtend 64
          d_pos := BitVec.ofNat 4 (s.d_pos.toNat + 1)
          schedule := rest })

/-- R105: `D-FINISH`; every register the rule does not name is unchanged. `DecInv` gives that every
character passed the look-up. -/
def Obligations.FinishStepPublishesTheValue : Prop :=
  ∀ (s : State) (rest : List Move), s.schedule = .dec :: rest →
    s.d_busy = true → 1 ≤ s.d_len.toNat → s.d_len.toNat ≤ 11 → s.d_pos = s.d_len →
    (DecInv s → ∀ k, k < s.d_len.toNat → rev (readByte s.d_in k) ≠ 0xFF) ∧
    step s = .next
      { s with
        d_val := s.d_acc
        d_err := false
        d_cause := none
        d_busy := false
        d_done := true
        schedule := rest }

/-- R123: whenever a turn of unit `DEC` leaves a command in progress with the error flag set, it made
exactly the update of `raise InvalidShiny`, the HOST sees the error on the ports, and the unit can take
the next `DECODE`. -/
def Obligations.EveryErrorCompletionIsTheOneUpdate : Prop :=
  ∀ (s t : State) (rest : List Move), s.schedule = .dec :: rest → DecInv s → s.d_busy = true →
    step s = .next t → t.d_err = true →
    ∃ cause : ShinyError,
      t = { s with
            d_err := true
            d_cause := some cause
            d_val := 0
            d_acc := 0
            d_busy := false
            d_done := true
            schedule := rest } ∧
      t.ports.dec_done = true ∧ t.ports.dec_err = true ∧
      t.ports.dec_cause = (match cause with | .length => 1#2 | .character => 2#2) ∧
      t.ports.dec_val = 0 ∧
      ∀ cmd : CmdWord, cmd.getLsbD 92 = true → cmdReady cmd t = true

/-- R127: `ENCODE` raises nothing. Its accept answers a next state for every operand in every state,
and no turn of unit `ENC` stops or touches the error flag and cause. -/
def Obligations.EncodeNeverFails : Prop :=
  (∀ (ignored : BitVec 28) (id : Ident) (s : State), ∃ t,
    exec (.encode ignored id) s = .next t ∧ t.d_err = s.d_err ∧ t.d_cause = s.d_cause) ∧
  (∀ (s : State) (rest : List Move), EncInv s → s.schedule = .enc :: rest → ∃ t,
    step s = .next t ∧ t.d_err = s.d_err ∧ t.d_cause = s.d_cause)

/-- R85: the zero case in the steps, from every state with an idle encoder: one `E-DIGIT`, which stores
`A`, that is `ALPHA[0]`, although the identifier is zero, and one `E-FINISH`. -/
def Obligations.ZeroEncodesAsTheOneCharacterA : Prop :=
  ∀ (ignored : BitVec 28) (s : State), s.e_busy = false → ∃ t u v,
    exec (.encode ignored 0) s = .next t ∧
    step { t with schedule := [.enc, .enc] } = .next u ∧
    readByte u.e_buf 10 = alpha 0 ∧ u.e_pos = 10 ∧ u.e_id = 0 ∧ u.e_busy = true ∧
    step u = .next v ∧
    v.e_len = 1 ∧ readByte v.e_str 0 = alpha 0 ∧ v.e_done = true ∧ v.e_busy = false

/-! ### Results of commands -/

/-- 40_encode.md section 1: the result function `encode`, with its worked example: 500 has the digits 7
and 52, the string `H0`. -/
def Obligations.EncodeResultIsTheDigitsOfTheIdentifier : Prop :=
  (∀ id : Ident, ∃ n : Nat,
    1 ≤ n ∧ n ≤ 11 ∧ (id = 0 → n = 1) ∧
    (id ≠ 0 → 64 ^ (n - 1) ≤ id.toNat ∧ id.toNat < 64 ^ n) ∧
    (encodeResult id).len.toNat = n ∧
    (∀ k, k < n →
      readByte (encodeResult id).str k = alpha ((id >>> (6 * (n - 1 - k))).extractLsb 5 0)) ∧
    (∀ k, n ≤ k → k ≤ 10 → readByte (encodeResult id).str k = 0x00)) ∧
  stringOf (encodeResult 500).len (encodeResult 500).str = [alpha 7, alpha 52]

/-- 40_encode.md sections 1 to 3: an accepted `ENCODE` ends with the result of `encode`, however the
steps of the unit are interleaved with those of unit `DEC` and with moves of the HOST other than
`RESET` and waiting. It takes as many `E-DIGIT` as the result has digits, then one `E-FINISH`. -/
def Obligations.AcceptedEncodeEndsWithItsResult : Prop :=
  ∀ (ignored : BitVec 28) (id : Ident) (s : State) (turns : List Move), s.e_busy = false →
    (∀ m, m ∈ turns → m.leavesCommands = true) → turns.count .enc = digitCount id →
    ∃ t u,
      exec (.encode ignored id) s = .next t ∧
      runSteps (turns.length + 1) (t.withSchedule (turns ++ [.enc])) = .next u ∧
      u.schedule = [] ∧ u.e_busy = false ∧ u.e_done = true ∧
      u.e_len = (encodeResult id).len ∧ u.e_str = (encodeResult id).str

/-- 41_decode.md sections 1 to 3: an accepted `DECODE` ends with the outcome of `decode`, however the
steps of the unit are interleaved with those of unit `ENC` and with moves of the HOST other than
`RESET` and waiting. `EncInv` rules out encoder states that no run reaches. -/
def Obligations.AcceptedDecodeEndsWithItsOutcome : Prop :=
  ∀ (slen : Len) (str : Buffer) (s : State) (turns : List Move), s.d_busy = false → EncInv s →
    (∀ m, m ∈ turns → m.leavesCommands = true) → turns.count .dec + 1 = decodeSteps slen str →
    ∃ t u,
      exec (.decode slen str) s = .next t ∧
      runSteps (turns.length + 1) (t.withSchedule (turns ++ [.dec])) = .next u ∧
      u.schedule = [] ∧ u.d_busy = false ∧ u.d_done = true ∧
      (u.d_err, u.d_cause, u.d_val) = (decodeResult slen str).outcome

/-- 40_encode.md section 3, termination and step count: `k` turns after the accept the encoder has
stored `k` digits, until it has stored them all; the next turn finishes; later turns change nothing. -/
def Obligations.EncodeTakesOneStepPerDigitAndOneToFinish : Prop :=
  ∀ (ignored : BitVec 28) (id : Ident) (s : State) (k : Nat), s.e_busy = false → ∃ t u,
    exec (.encode ignored id) s = .next t ∧
    runSteps k (t.withSchedule (List.replicate k .enc)) = .next u ∧
    (k ≤ digitCount id → u.e_busy = true ∧ u.e_done = false ∧ u.e_pos.toNat = 11 - k ∧
      u.e_id = id >>> (6 * k) ∧ u.e_len = 0) ∧
    (digitCount id < k → u.e_busy = false ∧ u.e_done = true ∧
      runSteps (digitCount id + 1) (t.withSchedule (List.replicate (digitCount id + 1) .enc)) =
        .next u)

/-- 41_decode.md section 3, termination and step count: the decoder is busy, with no outcome, for one
turn less than the rule counts; the last turn ends the command; later turns change nothing. At most 12
turns follow an accept. -/
def Obligations.DecodeTakesTheStepsOfItsString : Prop :=
  ∀ (slen : Len) (str : Buffer) (s : State) (k : Nat), s.d_busy = false → ∃ t u,
    decodeSteps slen str ≤ 12 ∧
    exec (.decode slen str) s = .next t ∧
    runSteps k (t.withSchedule (List.replicate k .dec)) = .next u ∧
    (k < decodeSteps slen str → u.d_busy = true ∧ u.d_done = false ∧ u.d_err = false ∧
      u.d_val = 0) ∧
    (decodeSteps slen str ≤ k → u.d_busy = false ∧ u.d_done = true ∧
      runSteps (decodeSteps slen str)
        (t.withSchedule (List.replicate (decodeSteps slen str) .dec)) = .next u)

/-- 60_exceptions.md sections 1 and 2: `InvalidShiny` is raised in exactly these cases, with these causes,
and no other; the length is checked first. -/
def Obligations.InvalidShinyInExactlyTwoCases : Prop :=
  ∀ (slen : Len) (str : Buffer),
    (decodeResult slen str = .invalidShiny .length ↔ slen = 0 ∨ 11 < slen.toNat) ∧
    (decodeResult slen str = .invalidShiny .character ↔
      (1 ≤ slen.toNat ∧ slen.toNat ≤ 11) ∧ ∃ k, k < slen.toNat ∧ rev (readByte str k) = 0xFF) ∧
    ((∃ value, decodeResult slen str = .ok value) ↔
      (1 ≤ slen.toNat ∧ slen.toNat ≤ 11) ∧ ∀ k, k < slen.toNat → rev (readByte str k) ≠ 0xFF)

/-- 41_decode.md section 1: the value of a string that is not rejected is its positional value in base
64, modulo `2^64`. -/
def Obligations.DecodedValueIsPositionalModulo64Bits : Prop :=
  ∀ (slen : Len) (str : Buffer) (value : Ident), decodeResult slen str = .ok value →
    value.toNat =
      ((List.range slen.toNat).map fun k =>
        (rev (readByte str k)).toNat * 64 ^ (slen.toNat - 1 - k)).sum % 2 ^ 64

/-- R104: the accumulate step is 64-bit arithmetic; ten digits lose nothing; of the first of eleven
digits only the low four bits are kept, and the command succeeds all the same; the rule's examples, with
the digits 16 of `Q`, 31 of `f`, 63 of `_`, 15 of `P` and 0 of `A`. -/
def Obligations.AccumulatorLosesWhatLeavesTheTop : Prop :=
  (∀ (acc : Ident) (digit : Digit),
    (foldDigit acc digit).toNat = (acc.toNat * 64 + digit.toNat) % 2 ^ 64) ∧
  (∀ (str : Buffer) (n : Nat), n ≤ 10 → (foldChars str n).toNat = positionalValue str n) ∧
  (∀ str : Buffer, (∀ k, k < 11 → isAlphaChar (readByte str k) = true) → ∃ value,
    decodeResult 11 str = .ok value ∧
    value.toNat + (digitOfChar (readByte str 0)).toNat / 16 * 2 ^ 64 = positionalValue str 11) ∧
  decodeResult 11
    #v[alpha 16, alpha 0, alpha 0, alpha 0, alpha 0, alpha 0,
      alpha 0, alpha 0, alpha 0, alpha 0, alpha 0] = .ok 0 ∧
  decodeResult 11
    #v[alpha 31, alpha 0, alpha 0, alpha 0, alpha 0, alpha 0,
      alpha 0, alpha 0, alpha 0, alpha 0, alpha 0] = .ok 0xF000000000000000 ∧
  decodeResult 11
    #v[alpha 63, alpha 63, alpha 63, alpha 63, alpha 63, alpha 63,
      alpha 63, alpha 63, alpha 63, alpha 63, alpha 63] = .ok 0xFFFFFFFFFFFFFFFF ∧
  decodeResult 11
    #v[alpha 15, alpha 63, alpha 63, alpha 63, alpha 63, alpha 63,
      alpha 63, alpha 63, alpha 63, alpha 63, alpha 63] = .ok 0xFFFFFFFFFFFFFFFF

/-- R106: `DECODE` accepts every string of 1 to 11 alphabet characters; a leading zero digit does not
change the value; first digits of eleven that differ by a multiple of 16 give the same value; and the
encoder gives a string back exactly when it is canonical. -/
def Obligations.DecodeAcceptsMoreThanCanonicalStrings : Prop :=
  (∀ str : List Byte, 1 ≤ str.length → str.length ≤ 11 →
    (∀ b, b ∈ str → isAlphaChar b = true) → ∃ value, decodeString str = .ok value) ∧
  (∀ str : List Byte, 1 ≤ str.length → str.length ≤ 10 →
    decodeString (alpha 0 :: str) = decodeString str) ∧
  (∀ (a b : Byte) (str : List Byte), str.length = 10 → isAlphaChar a = true →
    isAlphaChar b = true → (digitOfChar a).toNat % 16 = (digitOfChar b).toNat % 16 →
    decodeString (a :: str) = decodeString (b :: str)) ∧
  (∀ (slen : Len) (str : Buffer) (value : Ident), decodeResult slen str = .ok value →
    (stringOf (encodeResult value).len (encodeResult value).str = stringOf slen str ↔
      canonicalString slen str))

/-- 41_decode.md section 3, round trip: `decode(encode(x)) = x`, whatever pads the string. -/
def Obligations.DecodeUndoesEncode : Prop :=
  ∀ (id : Ident) (str : Buffer),
    (∀ k, k < (encodeResult id).len.toNat → readByte str k = readByte (encodeResult id).str k) →
    decodeResult (encodeResult id).len str = .ok id

/-- 41_decode.md section 3, the round trip in the hardware: the HOST issues `ENCODE`, waits, carries the
string from the ports into a `DECODE`, waits, and reads the identifier, from every state in which no
unit is busy. -/
def Obligations.HardwareRoundTripReturnsTheIdentifier : Prop :=
  ∀ (s : State) (id : Ident), Inv s → s.quiescent = true → ∃ j k u v,
    runSteps j (s.withSchedule (issueTurns (encodeCommand id) ++ [.waitEnc])) = .next u ∧
    u.schedule = [] ∧ u.ports.enc_done = true ∧
    runSteps k (u.withSchedule [.present u.ports.decodeWord, .accept, .waitDec]) = .next v ∧
    v.schedule = [] ∧ v.ports.dec_done = true ∧ v.ports.dec_err = false ∧ v.ports.dec_val = id

/-- 40_encode.md section 3, properties of the result: its length, minimal and 1 to 11; no leading zero
digit but for the identifier zero; a first digit of at most 15 in eleven; alphabet characters only. -/
def Obligations.EncodedStringsAreShortestAndCanonical : Prop :=
  ∀ id : Ident,
    1 ≤ (encodeResult id).len.toNat ∧ (encodeResult id).len.toNat ≤ 11 ∧
    (∀ m, 1 ≤ m → id.toNat < 64 ^ m → (encodeResult id).len.toNat ≤ m) ∧
    (readByte (encodeResult id).str 0 = alpha 0 ↔ id = 0) ∧
    (id = 0 → (encodeResult id).len = 1) ∧
    ((encodeResult id).len = 11 →
      readByte (encodeResult id).str 0 = alpha ((id.extractLsb 63 60).zeroExtend 6)) ∧
    (∀ k, k < (encodeResult id).len.toNat →
      ∃ d : Digit, readByte (encodeResult id).str k = alpha d)

/-- 40_encode.md section 3: the encoder is injective, on the string alone. -/
def Obligations.EncodeIsInjective : Prop :=
  ∀ x y : Ident, stringOf (encodeResult x).len (encodeResult x).str =
    stringOf (encodeResult y).len (encodeResult y).str → x = y

/-- 20_memory.md section 5: the character at index `k` of an `n`-character result carries the bits
`[6(n-1-k)+5 : 6(n-1-k)]` of the identifier, bits past 63 reading as zero. -/
def Obligations.CharacterCarriesItsSixBits : Prop :=
  ∀ (id : Ident) (k j : Nat), k < (encodeResult id).len.toNat → j < 6 →
    (digitOfChar (readByte (encodeResult id).str k)).getLsbD j =
      id.getLsbD (6 * ((encodeResult id).len.toNat - 1 - k) + j)

/-- 40_encode.md section 3: the two formulations the document offers, building back to front and
reversing a list, are the same function. -/
def Obligations.ReversingTheDigitListGivesTheSameString : Prop :=
  ∀ id : Ident,
    (charsLeastFirst 11 id).reverse = stringOf (encodeResult id).len (encodeResult id).str

/-! ### Tables -/

/-- R44: `REV` is derived from `ALPHA` and from nothing else. -/
def Obligations.ReverseTableIsDerivedFromTheAlphabet : Prop :=
  (∀ (b : Byte) (i : Digit), alpha i = b → rev b = i.zeroExtend 8) ∧
  (∀ b : Byte, (∀ i : Digit, alpha i ≠ b) → rev b = 0xFF)

/-- 20_memory.md sections 2 and 3: the contents of both tables, `ALPHA` at every index and `REV` at every
byte. The order is the document's; the byte values are the ASCII codes of log entry 5. -/
def Obligations.TablesHoldTheCanonicalAlphabet : Prop :=
  (∀ i : Digit,
    (i.toNat ≤ 25 → (alpha i).toNat = 0x41 + i.toNat) ∧
    (26 ≤ i.toNat → i.toNat ≤ 51 → (alpha i).toNat = 0x61 + (i.toNat - 26)) ∧
    (52 ≤ i.toNat → i.toNat ≤ 61 → (alpha i).toNat = 0x30 + (i.toNat - 52)) ∧
    (i = 62 → alpha i = 0x2D) ∧
    (i = 63 → alpha i = 0x5F)) ∧
  (∀ b : Byte, (rev b).toNat =
    if 0x41 ≤ b.toNat ∧ b.toNat ≤ 0x5A then b.toNat - 0x41
    else if 0x61 ≤ b.toNat ∧ b.toNat ≤ 0x7A then b.toNat - 0x61 + 26
    else if 0x30 ≤ b.toNat ∧ b.toNat ≤ 0x39 then b.toNat - 0x30 + 52
    else if b = 0x2D then 62
    else if b = 0x5F then 63
    else 0xFF)

/-! ### The whole machine -/

/-- R33 and R140: `RESET` is enabled in every state, gives every register its reset value in one step,
and leaves the block ready for either command. -/
def Obligations.ResetSetsEveryRegister : Prop :=
  ∀ (s : State) (rest : List Move), s.schedule = .reset :: rest → ∃ t, step s = .next t ∧
    t.e_busy = false ∧ t.e_done = false ∧ t.e_id = 0 ∧ t.e_pos = 11 ∧
    (∀ k, k ≤ 10 → readByte t.e_buf k = 0x00) ∧ t.e_len = 0 ∧
    (∀ k, k ≤ 10 → readByte t.e_str k = 0x00) ∧
    t.d_busy = false ∧ t.d_done = false ∧ t.d_err = false ∧ t.d_cause = none ∧ t.d_len = 0 ∧
    (∀ k, k ≤ 10 → readByte t.d_in k = 0x00) ∧ t.d_pos = 0 ∧ t.d_acc = 0 ∧ t.d_val = 0 ∧
    ∀ cmd : CmdWord, cmdReady cmd t = true

/-- R141: `RESET` abandons every command in progress: no turn of a unit ever completes it, and no result
or error of it is visible; a second `RESET` changes nothing. -/
def Obligations.ResetAbandonsCommandsInProgress : Prop :=
  ∀ (s : State) (turns : List Move), (∀ m, m ∈ turns → m.isUnitTurn = true) → ∃ t,
    runSteps 1 (s.withSchedule [.reset]) = .next t ∧
    runSteps (1 + turns.length) (s.withSchedule (.reset :: turns)) = .next t ∧
    runSteps 2 (s.withSchedule [.reset, .reset]) = .next t ∧
    t.e_busy = false ∧ t.d_busy = false ∧ t.e_done = false ∧ t.d_done = false ∧ t.d_err = false ∧
    t.ports.enc_len = 0 ∧ t.ports.enc_str = 0 ∧ t.ports.dec_val = 0

/-- The invariant holds in the state after reset (10_state.md sections 2, 3 and 8). -/
def Obligations.ResetStateMeetsTheInvariant : Prop := Inv State.reset

/-- Every step keeps the invariant of the two units (10_state.md sections 2 and 3), from every state
that meets it and under every turn. -/
def Obligations.EveryStepKeepsTheInvariant : Prop :=
  ∀ s t : State, Inv s → step s = .next t → Inv t

/-- 70_reset_and_hazards.md section 3: the block has no faulted state: from every state that meets the
invariant every turn answers a next state. -/
def Obligations.NoTurnStopsTheBlock : Prop :=
  ∀ s : State, Inv s → ∃ t, step s = .next t

/-- 00_scope.md section 5 and 70_reset_and_hazards.md section 3: a busy unit has exactly one enabled
step, and one that is not busy has none, so no step of the unit is stuck. -/
def Obligations.BusyUnitHasExactlyOneEnabledStep : Prop :=
  ∀ s : State, Inv s →
    (s.e_busy = true → Xor (s.digitEnabled = true) (s.encFinishEnabled = true)) ∧
    (s.e_busy = false → s.encEnabled = false) ∧
    (s.d_busy = true →
      [s.lenFailEnabled, s.charEnabled, s.decFinishEnabled].count true = 1) ∧
    (s.d_busy = false → s.decEnabled = false)

/-- 10_state.md section 2, the encoder's invariant in the arithmetic form of the spec: the identifier is
what is left in `e_id` and the digits already stored. -/
def Obligations.StoredDigitsAndRestMakeTheIdentifier : Prop :=
  ∀ s : State, EncInv s → s.e_busy = true → ∃ id0 : Ident,
    id0.toNat = s.e_id.toNat * 64 ^ (11 - s.e_pos.toNat) +
      ((List.range 11).map fun k =>
        if s.e_pos.toNat ≤ k then (rev (readByte s.e_buf k)).toNat * 64 ^ (10 - k) else 0).sum ∧
    s.e_id = id0 >>> (6 * (11 - s.e_pos.toNat)) ∧
    (∀ k, s.e_pos.toNat ≤ k → k ≤ 10 → isAlphaChar (readByte s.e_buf k) = true) ∧
    (∀ k, k < s.e_pos.toNat → readByte s.e_buf k = 0x00)

/-- 70_reset_and_hazards.md sections 3 and 4: left alone, the block becomes quiescent after finitely many
steps, with a word presented on the way accepted, and then stays as it is. The order of the steps on an
empty schedule is the model's choice (log entry 3). -/
def Obligations.BlockBecomesQuiescent : Prop :=
  ∀ s : State, Inv s → s.schedule = [] → ∃ u,
    runSteps 37 s = .next u ∧ u.quiescent = true ∧ u.cmd_port = none ∧
    ∀ k, runSteps (37 + k) s = .next u

/-- 20_memory.md section 8: the result of unit turns does not depend on how the units are interleaved. -/
def Obligations.InterleavingOfUnitTurnsDoesNotMatter : Prop :=
  ∀ (s : State) (a b : List Move), (∀ m, m ∈ a → m.isUnitTurn = true) → a.Perm b →
    runSteps a.length (s.withSchedule a) = runSteps b.length (s.withSchedule b)

/-- 20_memory.md section 8 and 40_encode.md section 3: a turn of unit `ENC` writes nothing of unit `DEC`
and nothing of the HOST's, and what it does to unit `ENC` depends on that unit's registers alone. -/
def Obligations.EncoderTurnsTouchOnlyTheEncoder : Prop :=
  (∀ (s t : State) (rest : List Move), s.schedule = .enc :: rest → step s = .next t →
    SameDec s t ∧ t.cmd_port = s.cmd_port ∧ t.schedule = rest) ∧
  (∀ (r s t : State) (x y : List Move), SameEnc r s → r.schedule = .enc :: x →
    s.schedule = .enc :: y → step r = .next t → ∃ u, step s = .next u ∧ SameEnc t u)

/-- 20_memory.md section 8 and 41_decode.md section 3: a turn of unit `DEC` writes nothing of unit `ENC`
and nothing of the HOST's, and what it does to unit `DEC` depends on that unit's registers alone. -/
def Obligations.DecoderTurnsTouchOnlyTheDecoder : Prop :=
  (∀ (s : State) (rest : List Move), s.schedule = .dec :: rest → ∃ t, step s = .next t ∧
    SameEnc s t ∧ t.cmd_port = s.cmd_port ∧ t.schedule = rest) ∧
  (∀ (r s t u : State) (x y : List Move), SameDec r s → r.schedule = .dec :: x →
    s.schedule = .dec :: y → step r = .next t → step s = .next u → SameDec t u)

/-- 40_encode.md section 3, 41_decode.md section 3 and 60_exceptions.md section 4: an accepted command
starts its unit afresh: nothing an earlier command left, an error among it, is left in the unit. -/
def Obligations.AcceptedCommandForgetsEarlierOnes : Prop :=
  (∀ (ignored : BitVec 28) (id : Ident) (r s : State), r.e_busy = false → s.e_busy = false →
    ∃ t u, exec (.encode ignored id) r = .next t ∧ exec (.encode ignored id) s = .next u ∧
      SameEnc t u ∧ SameDec r t) ∧
  (∀ (slen : Len) (str : Buffer) (r s : State), r.d_busy = false → s.d_busy = false →
    ∃ t u, exec (.decode slen str) r = .next t ∧ exec (.decode slen str) s = .next u ∧
      SameDec t u ∧ SameEnc r t)

/-- 30_encoding.md section 4: the characters a `DECODE` ignores have no effect: two states that differ in
such characters alone show the same ports, and after any step still differ in no more. -/
def Obligations.IgnoredCharactersAreNeverSeen : Prop :=
  (∀ (slen : Len) (a b : Buffer) (s : State), SameReadChars slen a b → s.d_busy = false →
    ∃ t u, exec (.decode slen a) s = .next t ∧ exec (.decode slen b) s = .next u ∧
      SameButIgnored t u) ∧
  (∀ s t : State, SameButIgnored s t → s.ports = t.ports) ∧
  (∀ s t u : State, SameButIgnored s t → step s = .next u →
    ∃ v, step t = .next v ∧ SameButIgnored u v)

/-- 70_reset_and_hazards.md section 3: a result, or an error, lasts until the next accept for its unit or
`RESET`, and the operands of a `DECODE` are held as long. Every turn but `RESET` is meant: an accept turn
for the other unit, one that accepts nothing, and a step with no turn laid down among them (at such a
step a presented word may be accepted, log entry 3). -/
def Obligations.OutcomesLastUntilAcceptOrReset : Prop :=
  ∀ s t : State, Inv s → s.schedule.head? ≠ some .reset → step s = .next t →
    (s.e_done = true → (s.acceptTurnNext && s.acceptsEncode) = false →
      t.e_done = true ∧ t.e_len = s.e_len ∧ t.e_str = s.e_str) ∧
    (s.d_done = true → (s.acceptTurnNext && s.acceptsDecode) = false →
      t.d_done = true ∧ t.d_err = s.d_err ∧ t.d_cause = s.d_cause ∧ t.d_val = s.d_val) ∧
    ((s.acceptTurnNext && s.acceptsDecode) = false → t.d_len = s.d_len ∧ t.d_in = s.d_in)

/-- R71: what the ports show, with the packing of `enc_str`, and that a result of `ENCODE` is the operand
of a `DECODE` without rearrangement. The invariant is for what the rule says of the values. -/
def Obligations.PortsShowTheState : Prop :=
  ∀ s : State,
    (∀ cmd : CmdWord, cmdReady cmd s = if cmd.getLsbD 92 then !s.d_busy else !s.e_busy) ∧
    s.ports.enc_busy = s.e_busy ∧ s.ports.enc_done = s.e_done ∧ s.ports.enc_len = s.e_len ∧
    (∀ k i, k ≤ 10 → i < 8 →
      s.ports.enc_str.getLsbD (80 - 8 * k + i) = (readByte s.e_str k).getLsbD i) ∧
    s.ports.dec_busy = s.d_busy ∧ s.ports.dec_done = s.d_done ∧ s.ports.dec_err = s.d_err ∧
    s.ports.dec_cause =
      (match s.d_cause with | none => 0#2 | some .length => 1#2 | some .character => 2#2) ∧
    s.ports.dec_val = s.d_val ∧
    decodeWord s.ports.decodeWord = .decode s.e_len s.e_str ∧
    (Inv s →
      (s.ports.enc_done = true → 1 ≤ s.ports.enc_len.toNat ∧ s.ports.enc_len.toNat ≤ 11) ∧
      (s.ports.enc_done = false → s.ports.enc_len = 0) ∧
      (∀ k, s.e_len.toNat ≤ k → k ≤ 10 → readByte s.e_str k = 0x00) ∧
      (s.ports.dec_err = true → s.ports.dec_cause = 1 ∨ s.ports.dec_cause = 2) ∧
      (s.ports.dec_err = false → s.ports.dec_cause = 0) ∧
      (s.ports.dec_done = false ∨ s.ports.dec_err = true → s.ports.dec_val = 0))

/-- 30_encoding.md section 6, binding to a clock: at an edge both units move, and in which order their two
turns are taken does not matter. The binding is a function beside the machine (log entry 15). -/
def Obligations.ClockEdgeMovesBothUnits : Prop :=
  ∀ s : State,
    clockEdge true s = step { s with schedule := .reset :: s.schedule } ∧
    clockEdge false s = twoTurns s.encEdgeTurn s.decEdgeTurn s ∧
    clockEdge false s = twoTurns s.decEdgeTurn s.encEdgeTurn s
end

