-- ==== Sys2Proof/Laws/Buffer.lean ====
section
/-! SUPPORT. Laws of the buffers: read after build, read after write, the zero buffer, the used suffix,
and extensionality by bytes (20_memory.md R47 to R50). -/

namespace Sys2Proof.Machine

theorem readByte_of_lt (buf : Buffer) (k : Nat) (h : k < 11) : readByte buf k = buf[k] := by
  simp [readByte, h]

theorem readByte_of_ge (buf : Buffer) (k : Nat) (h : 11 ≤ k) : readByte buf k = 0 := by
  have : ¬ k < 11 := by omega
  simp [readByte, this]

theorem readByte_bufferOf (f : Nat → Byte) (k : Nat) (h : k < 11) :
    readByte (bufferOf f) k = f k := by
  rw [readByte_of_lt _ _ h]
  interval_cases k <;> rfl

/-- Two buffers with the same eleven bytes are the same buffer. -/
theorem buffer_ext (a b : Buffer) (h : ∀ k, k < 11 → readByte a k = readByte b k) : a = b := by
  refine Vector.ext fun k hk => ?_
  have := h k hk
  rwa [readByte_of_lt _ _ hk, readByte_of_lt _ _ hk] at this

@[simp] theorem readByte_zeroBuffer (k : Nat) : readByte zeroBuffer k = 0 := by
  by_cases h : k < 11
  · rw [readByte_of_lt _ _ h]
    interval_cases k <;> rfl
  · exact readByte_of_ge _ _ (by omega)

theorem readByte_writeByte_self (buf : Buffer) (k : Nat) (v : Byte) (h : k < 11) :
    readByte (writeByte buf k v) k = v := by
  simp [readByte, writeByte, h]

theorem readByte_writeByte_ne (buf : Buffer) (k j : Nat) (v : Byte) (h : k ≠ j) :
    readByte (writeByte buf k v) j = readByte buf j := by
  simp [readByte, writeByte, h]

theorem readByte_usedSuffix (buf : Buffer) (pos k : Nat) (h : k < 11 - pos) :
    readByte (usedSuffix buf pos) k = readByte buf (pos + k) := by
  rw [usedSuffix, readByte_bufferOf _ _ (by omega), if_pos h]

theorem readByte_usedSuffix_padding (buf : Buffer) (pos k : Nat) (h : 11 - pos ≤ k) :
    readByte (usedSuffix buf pos) k = 0 := by
  by_cases hk : k < 11
  · rw [usedSuffix, readByte_bufferOf _ _ hk, if_neg (by omega)]
  · exact readByte_of_ge _ _ (by omega)

/-- Packing and unpacking characters are inverse: the character of a packed field (R48 item 5). -/
theorem fieldChar_packChars (str : Buffer) (k : Nat) (h : k < 11) :
    fieldChar (packChars str) k = readByte str k := by
  rw [readByte_of_lt _ _ h]
  ext i hi
  simp only [fieldChar, packChars, BitVec.getElem_extractLsb', BitVec.getLsbD_append]
  interval_cases k <;> interval_cases i <;> simp

end Sys2Proof.Machine
end

