-- ==== Sys2Proof/Laws/Digits.lean ====
section
/-! SUPPORT. The digit operations as arithmetic on numbers (40_encode.md R88, 41_decode.md R104). -/

namespace Sys2Proof.Machine

theorem lowDigit_toNat (id : Ident) : (lowDigit id).toNat = id.toNat % 64 := by
  simp [lowDigit]

theorem dropDigit_toNat (id : Ident) : (dropDigit id).toNat = id.toNat / 64 := by
  simp [dropDigit, Nat.shiftRight_eq_div_pow]

theorem shiftDigits_toNat (id : Ident) (p : Nat) : (id >>> (6 * p)).toNat = id.toNat / 64 ^ p := by
  rw [BitVec.toNat_ushiftRight, Nat.shiftRight_eq_div_pow, pow_mul]
  norm_num

theorem dropDigit_shift (id : Ident) (p : Nat) :
    dropDigit (id >>> (6 * p)) = id >>> (6 * (p + 1)) := by
  apply BitVec.eq_of_toNat_eq
  rw [dropDigit_toNat, shiftDigits_toNat, shiftDigits_toNat, pow_succ, Nat.div_div_eq_div_mul]

/-- The accumulate step is multiplication by 64 and addition, modulo `2^64` (R104). -/
theorem foldDigit_eq (acc : Ident) (digit : Digit) :
    foldDigit acc digit = acc * 64 + digit.zeroExtend 64 := by
  have h : (acc <<< 6) &&& digit.zeroExtend 64 = 0 := by
    ext i hi
    simp only [BitVec.getElem_and, BitVec.getElem_shiftLeft]
    by_cases h6 : i < 6
    · simp [h6]
    · simp [BitVec.getElem_setWidth, BitVec.getLsbD_of_ge digit i (by omega)]
  rw [foldDigit, ← BitVec.add_eq_or_of_and_eq_zero _ _ h]
  congr 1
  apply BitVec.eq_of_toNat_eq
  simp [BitVec.toNat_mul, Nat.shiftLeft_eq]

end Sys2Proof.Machine
end

