-- ==== Sys2Proof/Laws/Guards.lean ====
section
/-! SUPPORT. The guards of the unit steps in words (00_scope.md R9), and an accepted or waiting word. -/

namespace Sys2Proof.Machine

theorem lengthInvalid_iff (len : Len) : lengthInvalid len = true ↔ len = 0 ∨ 11 < len.toNat := by
  revert len; decide

theorem lengthInvalid_eq_false_iff (len : Len) :
    lengthInvalid len = false ↔ 1 ≤ len.toNat ∧ len.toNat ≤ 11 := by
  revert len; decide

theorem digitEnabled_iff (s : State) :
    s.digitEnabled = true ↔ s.e_busy = true ∧ (s.e_id ≠ 0 ∨ s.e_pos = 11) := by
  simp [State.digitEnabled]

theorem encFinishEnabled_iff (s : State) :
    s.encFinishEnabled = true ↔ s.e_busy = true ∧ s.e_id = 0 ∧ s.e_pos ≠ 11 := by
  simp [State.encFinishEnabled]

theorem charEnabled_iff (s : State) :
    s.charEnabled = true ↔
      s.d_busy = true ∧ lengthInvalid s.d_len = false ∧ s.d_pos.toNat < s.d_len.toNat := by
  simp [State.charEnabled, BitVec.lt_def]

theorem decFinishEnabled_iff (s : State) :
    s.decFinishEnabled = true ↔
      s.d_busy = true ∧ lengthInvalid s.d_len = false ∧ s.d_pos = s.d_len := by
  simp [State.decFinishEnabled]

/-- A turn laid down is the turn taken. -/
theorem advance_cons (s : State) (m : Move) (rest : List Move) (h : s.schedule = m :: rest) :
    advance s = takeTurn m rest s := by
  rw [advance, h]

/-- With none laid down the block goes on by itself. -/
theorem advance_nil (s : State) (h : s.schedule = []) : advance s = freeTurn s := by
  rw [advance, h]

end Sys2Proof.Machine
end

