-- ==== Sys2Proof/Laws/State.lean ====
section
/-! SUPPORT. Every field after every named update of State, true by rfl and tagged for simp, so that no
proof unfolds a record update. -/

namespace Sys2Proof.Machine

/-! `raise InvalidShiny` (R123) -/

@[simp] theorem State.raiseInvalidShiny_e_busy (cause : ShinyError) (s : State) :
    (s.raiseInvalidShiny cause).e_busy = s.e_busy := rfl
@[simp] theorem State.raiseInvalidShiny_e_done (cause : ShinyError) (s : State) :
    (s.raiseInvalidShiny cause).e_done = s.e_done := rfl
@[simp] theorem State.raiseInvalidShiny_e_id (cause : ShinyError) (s : State) :
    (s.raiseInvalidShiny cause).e_id = s.e_id := rfl
@[simp] theorem State.raiseInvalidShiny_e_pos (cause : ShinyError) (s : State) :
    (s.raiseInvalidShiny cause).e_pos = s.e_pos := rfl
@[simp] theorem State.raiseInvalidShiny_e_buf (cause : ShinyError) (s : State) :
    (s.raiseInvalidShiny cause).e_buf = s.e_buf := rfl
@[simp] theorem State.raiseInvalidShiny_e_len (cause : ShinyError) (s : State) :
    (s.raiseInvalidShiny cause).e_len = s.e_len := rfl
@[simp] theorem State.raiseInvalidShiny_e_str (cause : ShinyError) (s : State) :
    (s.raiseInvalidShiny cause).e_str = s.e_str := rfl
@[simp] theorem State.raiseInvalidShiny_d_busy (cause : ShinyError) (s : State) :
    (s.raiseInvalidShiny cause).d_busy = false := rfl
@[simp] theorem State.raiseInvalidShiny_d_done (cause : ShinyError) (s : State) :
    (s.raiseInvalidShiny cause).d_done = true := rfl
@[simp] theorem State.raiseInvalidShiny_d_err (cause : ShinyError) (s : State) :
    (s.raiseInvalidShiny cause).d_err = true := rfl
@[simp] theorem State.raiseInvalidShiny_d_cause (cause : ShinyError) (s : State) :
    (s.raiseInvalidShiny cause).d_cause = some cause := rfl
@[simp] theorem State.raiseInvalidShiny_d_len (cause : ShinyError) (s : State) :
    (s.raiseInvalidShiny cause).d_len = s.d_len := rfl
@[simp] theorem State.raiseInvalidShiny_d_in (cause : ShinyError) (s : State) :
    (s.raiseInvalidShiny cause).d_in = s.d_in := rfl
@[simp] theorem State.raiseInvalidShiny_d_pos (cause : ShinyError) (s : State) :
    (s.raiseInvalidShiny cause).d_pos = s.d_pos := rfl
@[simp] theorem State.raiseInvalidShiny_d_acc (cause : ShinyError) (s : State) :
    (s.raiseInvalidShiny cause).d_acc = 0 := rfl
@[simp] theorem State.raiseInvalidShiny_d_val (cause : ShinyError) (s : State) :
    (s.raiseInvalidShiny cause).d_val = 0 := rfl
@[simp] theorem State.raiseInvalidShiny_cmd_port (cause : ShinyError) (s : State) :
    (s.raiseInvalidShiny cause).cmd_port = s.cmd_port := rfl
@[simp] theorem State.raiseInvalidShiny_schedule (cause : ShinyError) (s : State) :
    (s.raiseInvalidShiny cause).schedule = s.schedule := rfl

/-! Clearing an outcome of `DEC` (R101, R125) -/

@[simp] theorem State.clearOutcome_e_busy (s : State) : s.clearOutcome.e_busy = s.e_busy := rfl
@[simp] theorem State.clearOutcome_e_done (s : State) : s.clearOutcome.e_done = s.e_done := rfl
@[simp] theorem State.clearOutcome_e_id (s : State) : s.clearOutcome.e_id = s.e_id := rfl
@[simp] theorem State.clearOutcome_e_pos (s : State) : s.clearOutcome.e_pos = s.e_pos := rfl
@[simp] theorem State.clearOutcome_e_buf (s : State) : s.clearOutcome.e_buf = s.e_buf := rfl
@[simp] theorem State.clearOutcome_e_len (s : State) : s.clearOutcome.e_len = s.e_len := rfl
@[simp] theorem State.clearOutcome_e_str (s : State) : s.clearOutcome.e_str = s.e_str := rfl
@[simp] theorem State.clearOutcome_d_busy (s : State) : s.clearOutcome.d_busy = s.d_busy := rfl
@[simp] theorem State.clearOutcome_d_done (s : State) : s.clearOutcome.d_done = false := rfl
@[simp] theorem State.clearOutcome_d_err (s : State) : s.clearOutcome.d_err = false := rfl
@[simp] theorem State.clearOutcome_d_cause (s : State) : s.clearOutcome.d_cause = none := rfl
@[simp] theorem State.clearOutcome_d_len (s : State) : s.clearOutcome.d_len = s.d_len := rfl
@[simp] theorem State.clearOutcome_d_in (s : State) : s.clearOutcome.d_in = s.d_in := rfl
@[simp] theorem State.clearOutcome_d_pos (s : State) : s.clearOutcome.d_pos = s.d_pos := rfl
@[simp] theorem State.clearOutcome_d_acc (s : State) : s.clearOutcome.d_acc = s.d_acc := rfl
@[simp] theorem State.clearOutcome_d_val (s : State) : s.clearOutcome.d_val = 0 := rfl
@[simp] theorem State.clearOutcome_cmd_port (s : State) :
    s.clearOutcome.cmd_port = s.cmd_port := rfl
@[simp] theorem State.clearOutcome_schedule (s : State) :
    s.clearOutcome.schedule = s.schedule := rfl

/-! `RESET` (R33, R140) -/

@[simp] theorem State.resetRegisters_e_busy (s : State) : s.resetRegisters.e_busy = false := rfl
@[simp] theorem State.resetRegisters_e_done (s : State) : s.resetRegisters.e_done = false := rfl
@[simp] theorem State.resetRegisters_e_id (s : State) : s.resetRegisters.e_id = 0 := rfl
@[simp] theorem State.resetRegisters_e_pos (s : State) : s.resetRegisters.e_pos = 11 := rfl
@[simp] theorem State.resetRegisters_e_buf (s : State) : s.resetRegisters.e_buf = zeroBuffer := rfl
@[simp] theorem State.resetRegisters_e_len (s : State) : s.resetRegisters.e_len = 0 := rfl
@[simp] theorem State.resetRegisters_e_str (s : State) : s.resetRegisters.e_str = zeroBuffer := rfl
@[simp] theorem State.resetRegisters_d_busy (s : State) : s.resetRegisters.d_busy = false := rfl
@[simp] theorem State.resetRegisters_d_done (s : State) : s.resetRegisters.d_done = false := rfl
@[simp] theorem State.resetRegisters_d_err (s : State) : s.resetRegisters.d_err = false := rfl
@[simp] theorem State.resetRegisters_d_cause (s : State) : s.resetRegisters.d_cause = none := rfl
@[simp] theorem State.resetRegisters_d_len (s : State) : s.resetRegisters.d_len = 0 := rfl
@[simp] theorem State.resetRegisters_d_in (s : State) : s.resetRegisters.d_in = zeroBuffer := rfl
@[simp] theorem State.resetRegisters_d_pos (s : State) : s.resetRegisters.d_pos = 0 := rfl
@[simp] theorem State.resetRegisters_d_acc (s : State) : s.resetRegisters.d_acc = 0 := rfl
@[simp] theorem State.resetRegisters_d_val (s : State) : s.resetRegisters.d_val = 0 := rfl
@[simp] theorem State.resetRegisters_cmd_port (s : State) :
    s.resetRegisters.cmd_port = s.cmd_port := rfl
@[simp] theorem State.resetRegisters_schedule (s : State) :
    s.resetRegisters.schedule = s.schedule := rfl

/-! Another presented word (R149) -/

@[simp] theorem State.withPort_e_busy (port : Option CmdWord) (s : State) :
    (s.withPort port).e_busy = s.e_busy := rfl
@[simp] theorem State.withPort_e_done (port : Option CmdWord) (s : State) :
    (s.withPort port).e_done = s.e_done := rfl
@[simp] theorem State.withPort_e_id (port : Option CmdWord) (s : State) :
    (s.withPort port).e_id = s.e_id := rfl
@[simp] theorem State.withPort_e_pos (port : Option CmdWord) (s : State) :
    (s.withPort port).e_pos = s.e_pos := rfl
@[simp] theorem State.withPort_e_buf (port : Option CmdWord) (s : State) :
    (s.withPort port).e_buf = s.e_buf := rfl
@[simp] theorem State.withPort_e_len (port : Option CmdWord) (s : State) :
    (s.withPort port).e_len = s.e_len := rfl
@[simp] theorem State.withPort_e_str (port : Option CmdWord) (s : State) :
    (s.withPort port).e_str = s.e_str := rfl
@[simp] theorem State.withPort_d_busy (port : Option CmdWord) (s : State) :
    (s.withPort port).d_busy = s.d_busy := rfl
@[simp] theorem State.withPort_d_done (port : Option CmdWord) (s : State) :
    (s.withPort port).d_done = s.d_done := rfl
@[simp] theorem State.withPort_d_err (port : Option CmdWord) (s : State) :
    (s.withPort port).d_err = s.d_err := rfl
@[simp] theorem State.withPort_d_cause (port : Option CmdWord) (s : State) :
    (s.withPort port).d_cause = s.d_cause := rfl
@[simp] theorem State.withPort_d_len (port : Option CmdWord) (s : State) :
    (s.withPort port).d_len = s.d_len := rfl
@[simp] theorem State.withPort_d_in (port : Option CmdWord) (s : State) :
    (s.withPort port).d_in = s.d_in := rfl
@[simp] theorem State.withPort_d_pos (port : Option CmdWord) (s : State) :
    (s.withPort port).d_pos = s.d_pos := rfl
@[simp] theorem State.withPort_d_acc (port : Option CmdWord) (s : State) :
    (s.withPort port).d_acc = s.d_acc := rfl
@[simp] theorem State.withPort_d_val (port : Option CmdWord) (s : State) :
    (s.withPort port).d_val = s.d_val := rfl
@[simp] theorem State.withPort_cmd_port (port : Option CmdWord) (s : State) :
    (s.withPort port).cmd_port = port := rfl
@[simp] theorem State.withPort_schedule (port : Option CmdWord) (s : State) :
    (s.withPort port).schedule = s.schedule := rfl

/-! Other turns to come -/

@[simp] theorem State.withSchedule_e_busy (turns : List Move) (s : State) :
    (s.withSchedule turns).e_busy = s.e_busy := rfl
@[simp] theorem State.withSchedule_e_done (turns : List Move) (s : State) :
    (s.withSchedule turns).e_done = s.e_done := rfl
@[simp] theorem State.withSchedule_e_id (turns : List Move) (s : State) :
    (s.withSchedule turns).e_id = s.e_id := rfl
@[simp] theorem State.withSchedule_e_pos (turns : List Move) (s : State) :
    (s.withSchedule turns).e_pos = s.e_pos := rfl
@[simp] theorem State.withSchedule_e_buf (turns : List Move) (s : State) :
    (s.withSchedule turns).e_buf = s.e_buf := rfl
@[simp] theorem State.withSchedule_e_len (turns : List Move) (s : State) :
    (s.withSchedule turns).e_len = s.e_len := rfl
@[simp] theorem State.withSchedule_e_str (turns : List Move) (s : State) :
    (s.withSchedule turns).e_str = s.e_str := rfl
@[simp] theorem State.withSchedule_d_busy (turns : List Move) (s : State) :
    (s.withSchedule turns).d_busy = s.d_busy := rfl
@[simp] theorem State.withSchedule_d_done (turns : List Move) (s : State) :
    (s.withSchedule turns).d_done = s.d_done := rfl
@[simp] theorem State.withSchedule_d_err (turns : List Move) (s : State) :
    (s.withSchedule turns).d_err = s.d_err := rfl
@[simp] theorem State.withSchedule_d_cause (turns : List Move) (s : State) :
    (s.withSchedule turns).d_cause = s.d_cause := rfl
@[simp] theorem State.withSchedule_d_len (turns : List Move) (s : State) :
    (s.withSchedule turns).d_len = s.d_len := rfl
@[simp] theorem State.withSchedule_d_in (turns : List Move) (s : State) :
    (s.withSchedule turns).d_in = s.d_in := rfl
@[simp] theorem State.withSchedule_d_pos (turns : List Move) (s : State) :
    (s.withSchedule turns).d_pos = s.d_pos := rfl
@[simp] theorem State.withSchedule_d_acc (turns : List Move) (s : State) :
    (s.withSchedule turns).d_acc = s.d_acc := rfl
@[simp] theorem State.withSchedule_d_val (turns : List Move) (s : State) :
    (s.withSchedule turns).d_val = s.d_val := rfl
@[simp] theorem State.withSchedule_cmd_port (turns : List Move) (s : State) :
    (s.withSchedule turns).cmd_port = s.cmd_port := rfl
@[simp] theorem State.withSchedule_schedule (turns : List Move) (s : State) :
    (s.withSchedule turns).schedule = turns := rfl

/-! `E-ACCEPT` (R81) -/

@[simp] theorem State.encAccept_e_busy (id : Ident) (s : State) :
    (s.encAccept id).e_busy = true := rfl
@[simp] theorem State.encAccept_e_done (id : Ident) (s : State) :
    (s.encAccept id).e_done = false := rfl
@[simp] theorem State.encAccept_e_id (id : Ident) (s : State) : (s.encAccept id).e_id = id := rfl
@[simp] theorem State.encAccept_e_pos (id : Ident) (s : State) : (s.encAccept id).e_pos = 11 := rfl
@[simp] theorem State.encAccept_e_buf (id : Ident) (s : State) :
    (s.encAccept id).e_buf = zeroBuffer := rfl
@[simp] theorem State.encAccept_e_len (id : Ident) (s : State) : (s.encAccept id).e_len = 0 := rfl
@[simp] theorem State.encAccept_e_str (id : Ident) (s : State) :
    (s.encAccept id).e_str = zeroBuffer := rfl
@[simp] theorem State.encAccept_d_busy (id : Ident) (s : State) :
    (s.encAccept id).d_busy = s.d_busy := rfl
@[simp] theorem State.encAccept_d_done (id : Ident) (s : State) :
    (s.encAccept id).d_done = s.d_done := rfl
@[simp] theorem State.encAccept_d_err (id : Ident) (s : State) :
    (s.encAccept id).d_err = s.d_err := rfl
@[simp] theorem State.encAccept_d_cause (id : Ident) (s : State) :
    (s.encAccept id).d_cause = s.d_cause := rfl
@[simp] theorem State.encAccept_d_len (id : Ident) (s : State) :
    (s.encAccept id).d_len = s.d_len := rfl
@[simp] theorem State.encAccept_d_in (id : Ident) (s : State) :
    (s.encAccept id).d_in = s.d_in := rfl
@[simp] theorem State.encAccept_d_pos (id : Ident) (s : State) :
    (s.encAccept id).d_pos = s.d_pos := rfl
@[simp] theorem State.encAccept_d_acc (id : Ident) (s : State) :
    (s.encAccept id).d_acc = s.d_acc := rfl
@[simp] theorem State.encAccept_d_val (id : Ident) (s : State) :
    (s.encAccept id).d_val = s.d_val := rfl
@[simp] theorem State.encAccept_cmd_port (id : Ident) (s : State) :
    (s.encAccept id).cmd_port = s.cmd_port := rfl
@[simp] theorem State.encAccept_schedule (id : Ident) (s : State) :
    (s.encAccept id).schedule = s.schedule := rfl

/-! `E-DIGIT` (R82) -/

@[simp] theorem State.putDigit_e_busy (s : State) : s.putDigit.e_busy = s.e_busy := rfl
@[simp] theorem State.putDigit_e_done (s : State) : s.putDigit.e_done = s.e_done := rfl
@[simp] theorem State.putDigit_e_id (s : State) : s.putDigit.e_id = dropDigit s.e_id := rfl
@[simp] theorem State.putDigit_e_pos (s : State) : s.putDigit.e_pos = s.e_pos - 1 := rfl
@[simp] theorem State.putDigit_e_buf (s : State) :
    s.putDigit.e_buf = writeByte s.e_buf (s.e_pos - 1).toNat (alpha (lowDigit s.e_id)) := rfl
@[simp] theorem State.putDigit_e_len (s : State) : s.putDigit.e_len = s.e_len := rfl
@[simp] theorem State.putDigit_e_str (s : State) : s.putDigit.e_str = s.e_str := rfl
@[simp] theorem State.putDigit_d_busy (s : State) : s.putDigit.d_busy = s.d_busy := rfl
@[simp] theorem State.putDigit_d_done (s : State) : s.putDigit.d_done = s.d_done := rfl
@[simp] theorem State.putDigit_d_err (s : State) : s.putDigit.d_err = s.d_err := rfl
@[simp] theorem State.putDigit_d_cause (s : State) : s.putDigit.d_cause = s.d_cause := rfl
@[simp] theorem State.putDigit_d_len (s : State) : s.putDigit.d_len = s.d_len := rfl
@[simp] theorem State.putDigit_d_in (s : State) : s.putDigit.d_in = s.d_in := rfl
@[simp] theorem State.putDigit_d_pos (s : State) : s.putDigit.d_pos = s.d_pos := rfl
@[simp] theorem State.putDigit_d_acc (s : State) : s.putDigit.d_acc = s.d_acc := rfl
@[simp] theorem State.putDigit_d_val (s : State) : s.putDigit.d_val = s.d_val := rfl
@[simp] theorem State.putDigit_cmd_port (s : State) : s.putDigit.cmd_port = s.cmd_port := rfl
@[simp] theorem State.putDigit_schedule (s : State) : s.putDigit.schedule = s.schedule := rfl

/-! `E-FINISH` (R83) -/

@[simp] theorem State.publishString_e_busy (s : State) : s.publishString.e_busy = false := rfl
@[simp] theorem State.publishString_e_done (s : State) : s.publishString.e_done = true := rfl
@[simp] theorem State.publishString_e_id (s : State) : s.publishString.e_id = s.e_id := rfl
@[simp] theorem State.publishString_e_pos (s : State) : s.publishString.e_pos = s.e_pos := rfl
@[simp] theorem State.publishString_e_buf (s : State) : s.publishString.e_buf = s.e_buf := rfl
@[simp] theorem State.publishString_e_len (s : State) : s.publishString.e_len = 11 - s.e_pos := rfl
@[simp] theorem State.publishString_e_str (s : State) :
    s.publishString.e_str = usedSuffix s.e_buf s.e_pos.toNat := rfl
@[simp] theorem State.publishString_d_busy (s : State) : s.publishString.d_busy = s.d_busy := rfl
@[simp] theorem State.publishString_d_done (s : State) : s.publishString.d_done = s.d_done := rfl
@[simp] theorem State.publishString_d_err (s : State) : s.publishString.d_err = s.d_err := rfl
@[simp] theorem State.publishString_d_cause (s : State) : s.publishString.d_cause = s.d_cause := rfl
@[simp] theorem State.publishString_d_len (s : State) : s.publishString.d_len = s.d_len := rfl
@[simp] theorem State.publishString_d_in (s : State) : s.publishString.d_in = s.d_in := rfl
@[simp] theorem State.publishString_d_pos (s : State) : s.publishString.d_pos = s.d_pos := rfl
@[simp] theorem State.publishString_d_acc (s : State) : s.publishString.d_acc = s.d_acc := rfl
@[simp] theorem State.publishString_d_val (s : State) : s.publishString.d_val = s.d_val := rfl
@[simp] theorem State.publishString_cmd_port (s : State) :
    s.publishString.cmd_port = s.cmd_port := rfl
@[simp] theorem State.publishString_schedule (s : State) :
    s.publishString.schedule = s.schedule := rfl

/-! `D-ACCEPT` (R101) -/

@[simp] theorem State.decAccept_e_busy (slen : Len) (str : Buffer) (s : State) :
    (s.decAccept slen str).e_busy = s.e_busy := rfl
@[simp] theorem State.decAccept_e_done (slen : Len) (str : Buffer) (s : State) :
    (s.decAccept slen str).e_done = s.e_done := rfl
@[simp] theorem State.decAccept_e_id (slen : Len) (str : Buffer) (s : State) :
    (s.decAccept slen str).e_id = s.e_id := rfl
@[simp] theorem State.decAccept_e_pos (slen : Len) (str : Buffer) (s : State) :
    (s.decAccept slen str).e_pos = s.e_pos := rfl
@[simp] theorem State.decAccept_e_buf (slen : Len) (str : Buffer) (s : State) :
    (s.decAccept slen str).e_buf = s.e_buf := rfl
@[simp] theorem State.decAccept_e_len (slen : Len) (str : Buffer) (s : State) :
    (s.decAccept slen str).e_len = s.e_len := rfl
@[simp] theorem State.decAccept_e_str (slen : Len) (str : Buffer) (s : State) :
    (s.decAccept slen str).e_str = s.e_str := rfl
@[simp] theorem State.decAccept_d_busy (slen : Len) (str : Buffer) (s : State) :
    (s.decAccept slen str).d_busy = true := rfl
@[simp] theorem State.decAccept_d_done (slen : Len) (str : Buffer) (s : State) :
    (s.decAccept slen str).d_done = false := rfl
@[simp] theorem State.decAccept_d_err (slen : Len) (str : Buffer) (s : State) :
    (s.decAccept slen str).d_err = false := rfl
@[simp] theorem State.decAccept_d_cause (slen : Len) (str : Buffer) (s : State) :
    (s.decAccept slen str).d_cause = none := rfl
@[simp] theorem State.decAccept_d_len (slen : Len) (str : Buffer) (s : State) :
    (s.decAccept slen str).d_len = slen := rfl
@[simp] theorem State.decAccept_d_in (slen : Len) (str : Buffer) (s : State) :
    (s.decAccept slen str).d_in = str := rfl
@[simp] theorem State.decAccept_d_pos (slen : Len) (str : Buffer) (s : State) :
    (s.decAccept slen str).d_pos = 0 := rfl
@[simp] theorem State.decAccept_d_acc (slen : Len) (str : Buffer) (s : State) :
    (s.decAccept slen str).d_acc = 0 := rfl
@[simp] theorem State.decAccept_d_val (slen : Len) (str : Buffer) (s : State) :
    (s.decAccept slen str).d_val = 0 := rfl
@[simp] theorem State.decAccept_cmd_port (slen : Len) (str : Buffer) (s : State) :
    (s.decAccept slen str).cmd_port = s.cmd_port := rfl
@[simp] theorem State.decAccept_schedule (slen : Len) (str : Buffer) (s : State) :
    (s.decAccept slen str).schedule = s.schedule := rfl

/-! The succeeding arm of `D-CHAR` (R103) -/

@[simp] theorem State.foldChar_e_busy (s : State) : s.foldChar.e_busy = s.e_busy := rfl
@[simp] theorem State.foldChar_e_done (s : State) : s.foldChar.e_done = s.e_done := rfl
@[simp] theorem State.foldChar_e_id (s : State) : s.foldChar.e_id = s.e_id := rfl
@[simp] theorem State.foldChar_e_pos (s : State) : s.foldChar.e_pos = s.e_pos := rfl
@[simp] theorem State.foldChar_e_buf (s : State) : s.foldChar.e_buf = s.e_buf := rfl
@[simp] theorem State.foldChar_e_len (s : State) : s.foldChar.e_len = s.e_len := rfl
@[simp] theorem State.foldChar_e_str (s : State) : s.foldChar.e_str = s.e_str := rfl
@[simp] theorem State.foldChar_d_busy (s : State) : s.foldChar.d_busy = s.d_busy := rfl
@[simp] theorem State.foldChar_d_done (s : State) : s.foldChar.d_done = s.d_done := rfl
@[simp] theorem State.foldChar_d_err (s : State) : s.foldChar.d_err = s.d_err := rfl
@[simp] theorem State.foldChar_d_cause (s : State) : s.foldChar.d_cause = s.d_cause := rfl
@[simp] theorem State.foldChar_d_len (s : State) : s.foldChar.d_len = s.d_len := rfl
@[simp] theorem State.foldChar_d_in (s : State) : s.foldChar.d_in = s.d_in := rfl
@[simp] theorem State.foldChar_d_pos (s : State) : s.foldChar.d_pos = s.d_pos + 1 := rfl
@[simp] theorem State.foldChar_d_acc (s : State) :
    s.foldChar.d_acc = foldDigit s.d_acc (digitOfChar s.nextChar) := rfl
@[simp] theorem State.foldChar_d_val (s : State) : s.foldChar.d_val = s.d_val := rfl
@[simp] theorem State.foldChar_cmd_port (s : State) : s.foldChar.cmd_port = s.cmd_port := rfl
@[simp] theorem State.foldChar_schedule (s : State) : s.foldChar.schedule = s.schedule := rfl

/-! `D-FINISH` (R105) -/

@[simp] theorem State.publishValue_e_busy (s : State) : s.publishValue.e_busy = s.e_busy := rfl
@[simp] theorem State.publishValue_e_done (s : State) : s.publishValue.e_done = s.e_done := rfl
@[simp] theorem State.publishValue_e_id (s : State) : s.publishValue.e_id = s.e_id := rfl
@[simp] theorem State.publishValue_e_pos (s : State) : s.publishValue.e_pos = s.e_pos := rfl
@[simp] theorem State.publishValue_e_buf (s : State) : s.publishValue.e_buf = s.e_buf := rfl
@[simp] theorem State.publishValue_e_len (s : State) : s.publishValue.e_len = s.e_len := rfl
@[simp] theorem State.publishValue_e_str (s : State) : s.publishValue.e_str = s.e_str := rfl
@[simp] theorem State.publishValue_d_busy (s : State) : s.publishValue.d_busy = false := rfl
@[simp] theorem State.publishValue_d_done (s : State) : s.publishValue.d_done = true := rfl
@[simp] theorem State.publishValue_d_err (s : State) : s.publishValue.d_err = false := rfl
@[simp] theorem State.publishValue_d_cause (s : State) : s.publishValue.d_cause = none := rfl
@[simp] theorem State.publishValue_d_len (s : State) : s.publishValue.d_len = s.d_len := rfl
@[simp] theorem State.publishValue_d_in (s : State) : s.publishValue.d_in = s.d_in := rfl
@[simp] theorem State.publishValue_d_pos (s : State) : s.publishValue.d_pos = s.d_pos := rfl
@[simp] theorem State.publishValue_d_acc (s : State) : s.publishValue.d_acc = s.d_acc := rfl
@[simp] theorem State.publishValue_d_val (s : State) : s.publishValue.d_val = s.d_acc := rfl
@[simp] theorem State.publishValue_cmd_port (s : State) :
    s.publishValue.cmd_port = s.cmd_port := rfl
@[simp] theorem State.publishValue_schedule (s : State) :
    s.publishValue.schedule = s.schedule := rfl

/-! A word put on the port with its accept turn -/

@[simp] theorem State.presenting_e_busy (cmd : CmdWord) (s : State) :
    (s.presenting cmd).e_busy = s.e_busy := rfl
@[simp] theorem State.presenting_e_done (cmd : CmdWord) (s : State) :
    (s.presenting cmd).e_done = s.e_done := rfl
@[simp] theorem State.presenting_e_id (cmd : CmdWord) (s : State) :
    (s.presenting cmd).e_id = s.e_id := rfl
@[simp] theorem State.presenting_e_pos (cmd : CmdWord) (s : State) :
    (s.presenting cmd).e_pos = s.e_pos := rfl
@[simp] theorem State.presenting_e_buf (cmd : CmdWord) (s : State) :
    (s.presenting cmd).e_buf = s.e_buf := rfl
@[simp] theorem State.presenting_e_len (cmd : CmdWord) (s : State) :
    (s.presenting cmd).e_len = s.e_len := rfl
@[simp] theorem State.presenting_e_str (cmd : CmdWord) (s : State) :
    (s.presenting cmd).e_str = s.e_str := rfl
@[simp] theorem State.presenting_d_busy (cmd : CmdWord) (s : State) :
    (s.presenting cmd).d_busy = s.d_busy := rfl
@[simp] theorem State.presenting_d_done (cmd : CmdWord) (s : State) :
    (s.presenting cmd).d_done = s.d_done := rfl
@[simp] theorem State.presenting_d_err (cmd : CmdWord) (s : State) :
    (s.presenting cmd).d_err = s.d_err := rfl
@[simp] theorem State.presenting_d_cause (cmd : CmdWord) (s : State) :
    (s.presenting cmd).d_cause = s.d_cause := rfl
@[simp] theorem State.presenting_d_len (cmd : CmdWord) (s : State) :
    (s.presenting cmd).d_len = s.d_len := rfl
@[simp] theorem State.presenting_d_in (cmd : CmdWord) (s : State) :
    (s.presenting cmd).d_in = s.d_in := rfl
@[simp] theorem State.presenting_d_pos (cmd : CmdWord) (s : State) :
    (s.presenting cmd).d_pos = s.d_pos := rfl
@[simp] theorem State.presenting_d_acc (cmd : CmdWord) (s : State) :
    (s.presenting cmd).d_acc = s.d_acc := rfl
@[simp] theorem State.presenting_d_val (cmd : CmdWord) (s : State) :
    (s.presenting cmd).d_val = s.d_val := rfl
@[simp] theorem State.presenting_cmd_port (cmd : CmdWord) (s : State) :
    (s.presenting cmd).cmd_port = some cmd := rfl
@[simp] theorem State.presenting_schedule (cmd : CmdWord) (s : State) :
    (s.presenting cmd).schedule = .accept :: s.schedule := rfl

end Sys2Proof.Machine
end

