-- ==== Sys2Proof/Laws/Invariant.lean ====
section
/-! SUPPORT. What the invariants depend on, and the states they hold in without a step: each unit's
invariant is a fact of that unit's registers, and a fresh command meets it. -/

namespace Sys2Proof.Machine

theorem EncWorking.of_sameEnc {id0 : Ident} {s t : State} (h : EncWorking id0 s)
    (e : SameEnc s t) : EncWorking id0 t := by
  constructor
  · rw [← e.e_id, ← e.e_pos]; exact h.rest
  · rw [← e.e_pos, ← e.e_buf]; exact h.filled
  · rw [← e.e_pos, ← e.e_buf]; exact h.clear
  · rw [← e.e_pos]; exact h.minimal

/-- The encoder's invariant is a fact of its registers alone. -/
theorem EncInv.of_sameEnc {s t : State} (h : EncInv s) (e : SameEnc s t) : EncInv t := by
  constructor
  · rw [← e.e_pos]; exact h.pos_le
  · rw [← e.e_busy, ← e.e_done]; exact h.exclusive
  · rw [← e.e_busy]; exact fun hb => (h.working hb).imp fun _ w => w.of_sameEnc e
  · rw [← e.e_done, ← e.e_len, ← e.e_str]; exact h.result
  · rw [← e.e_done, ← e.e_len, ← e.e_str]; exact h.blank

/-- The decoder's invariant is a fact of its registers alone. -/
theorem DecInv.of_sameDec {s t : State} (h : DecInv s) (e : SameDec s t) : DecInv t := by
  constructor
  · rw [← e.d_busy, ← e.d_done]; exact h.exclusive
  · rw [← e.d_err, ← e.d_done, ← e.d_cause, ← e.d_val]; exact h.error
  · rw [← e.d_err, ← e.d_cause]; exact h.noError
  · rw [← e.d_done, ← e.d_val]; exact h.blank
  · rw [← e.d_busy, ← e.d_len, ← e.d_pos, ← e.d_acc]; exact h.started
  · rw [← e.d_busy, ← e.d_len, ← e.d_pos, ← e.d_acc, ← e.d_in]; exact h.folded
  · rw [← e.d_done, ← e.d_err, ← e.d_cause, ← e.d_val, ← e.d_len, ← e.d_in]; exact h.result

/-- A fresh `ENCODE` is in progress with no digit stored. -/
theorem encWorking_encAccept (id : Ident) (s : State) : EncWorking id (s.encAccept id) := by
  constructor
  · simp
  · intro k h1 h2
    simp at h1
    omega
  · intro k _
    simp
  · intro h
    simp at h

/-- A fresh `ENCODE` meets the encoder's invariant. -/
theorem encInv_encAccept (id : Ident) (s : State) : EncInv (s.encAccept id) where
  pos_le := by simp
  exclusive := by simp
  working := fun _ => ⟨id, encWorking_encAccept id s⟩
  result := by simp
  blank := by simp

/-- A fresh `DECODE` meets the decoder's invariant. -/
theorem decInv_decAccept (slen : Len) (str : Buffer) (s : State) :
    DecInv (s.decAccept slen str) := by
  constructor <;> simp [foldChars, BitVec.le_def]

end Sys2Proof.Machine
end

