-- ==== Sys2Proof/Laws/PerInstr.lean ====
section
/-! SUPPORT. Facts about every command as syntax, one lemma per constructor of Instr. -/

namespace Sys2Proof.Laws

/-- What the `match` and `mask` columns of spec/opcode_table.json say of the command's word
(30_encoding.md R64). -/
def opcode.Statement (i : Instr) : Prop :=
  encodeWord i &&& 0x100000000000000000000000#93 =
    match i with
    | .encode _ _ => 0
    | .decode _ _ => 0x100000000000000000000000#93

/-- A word masked with the opcode bit. -/
theorem opcodeMask (cmd : CmdWord) :
    cmd &&& 0x100000000000000000000000#93 =
      if cmd.getLsbD 92 then 0x100000000000000000000000#93 else 0 := by
  ext i hi
  by_cases h : i = 92
  · subst h
    cases hc : cmd.getLsbD 92 <;> simp at hc ⊢ <;> simp [hc]
  · have off : (0x100000000000000000000000#93)[i] = false := by
      interval_cases i <;> simp_all
    split <;> simp [off]

theorem opcode.encode (ignored : BitVec 28) (id : Ident) :
    opcode.Statement (.encode ignored id) := by
  have h : (encodeWord (.encode ignored id)).getLsbD 92 = false := by
    simp only [encodeWord, BitVec.getLsbD_append]
    simp
  rw [opcode.Statement, opcodeMask, h]
  rfl

theorem opcode.decode (slen : Len) (str : Buffer) : opcode.Statement (.decode slen str) := by
  have h : (encodeWord (.decode slen str)).getLsbD 92 = true := by
    simp only [encodeWord, BitVec.getLsbD_append]
    simp
  rw [opcode.Statement, opcodeMask, h]
  rfl

end Sys2Proof.Laws
end

