-- ==== Sys2Proof/Laws/Tables.lean ====
section
/-! SUPPORT. The two tables are consistent (20_memory.md R42, R43, R56), and the alphabet meets what
00_scope.md R5 asks of one. -/

namespace Sys2Proof.Machine

theorem alphaTable_ok : alphabetOk alphaTable = true := by decide

/-- `REV[ALPHA[i]] = i` (R56). -/
@[simp] theorem rev_alpha (i : Digit) : rev (alpha i) = i.zeroExtend 8 := by
  revert i; decide

/-- Every entry of `REV` is a digit or the sentinel (R43). -/
theorem rev_range : ∀ b : Byte, rev b = Config.sentinel ∨ rev b ≤ 0x3F#8 := by
  set_option maxRecDepth 4000 in decide

/-- `ALPHA[REV[b]] = b` for every byte of the alphabet (R56). -/
theorem alpha_digitOfChar : ∀ b : Byte, isAlphaChar b = true → alpha (digitOfChar b) = b := by
  set_option maxRecDepth 4000 in decide

@[simp] theorem digitOfChar_alpha (i : Digit) : digitOfChar (alpha i) = i := by
  revert i; decide

@[simp] theorem isAlphaChar_alpha (i : Digit) : isAlphaChar (alpha i) = true := by
  revert i; decide

@[simp] theorem charInvalid_alpha (i : Digit) : charInvalid (alpha i) = false := by
  revert i; decide

theorem charInvalid_eq_not (b : Byte) : charInvalid b = !isAlphaChar b := by
  simp only [charInvalid, isAlphaChar, bne, Bool.not_not]

/-- `ALPHA` has distinct entries (R42). -/
theorem alpha_injective (i j : Digit) (h : alpha i = alpha j) : i = j := by
  have := congrArg digitOfChar h
  simpa using this

/-- No alphabet character is the padding byte (R42). -/
theorem alpha_ne_zero (i : Digit) : alpha i ≠ 0 := by
  revert i; decide

/-- The digit of an alphabet character is its whole `REV` entry (R43, R103). -/
theorem digitOfChar_toNat (b : Byte) (h : isAlphaChar b = true) :
    (digitOfChar b).toNat = (rev b).toNat := by
  rw [← alpha_digitOfChar b h, digitOfChar_alpha, rev_alpha]
  simp; omega

end Sys2Proof.Machine
end

