-- ==== Sys2Proof/Laws/Results.lean ====
section
/-! SUPPORT. Spec lemmas of the result functions (40_encode.md R80, 41_decode.md R100): the digit count
by its bounds, the fold by one character, and the character check. -/

namespace Sys2Proof.Machine

/-- The digit count is the one number that meets its bounds. -/
theorem digitCount_eq (id : Ident) (n : Nat) (h1 : 1 ≤ n) (h11 : n ≤ 11) (hlt : id.toNat < 64 ^ n)
    (hge : n = 1 ∨ 64 ^ (n - 1) ≤ id.toNat) : digitCount id = n := by
  have found : (List.range' 1 11).find? (fun n => decide (id.toNat < 64 ^ n)) = some n := by
    rw [List.find?_eq_some_iff_append]
    refine ⟨by simpa using hlt, List.range' 1 (n - 1), List.range' (n + 1) (11 - n), ?_, ?_⟩
    · interval_cases n <;> rfl
    · intro a ha
      rw [List.mem_range'_1] at ha
      have below := hge.resolve_left (by omega)
      have : 64 ^ a ≤ 64 ^ (n - 1) := Nat.pow_le_pow_right (by norm_num) (by omega)
      simp
      omega
  rw [digitCount, found]
  rfl

/-- A shift by whole digits leaves nothing exactly when the identifier has no more digits. -/
theorem shiftDigits_eq_zero_iff (id : Ident) (p : Nat) : id >>> (6 * p) = 0 ↔ id.toNat < 64 ^ p := by
  rw [← BitVec.toNat_inj, shiftDigits_toNat]
  simp [Nat.div_eq_zero_iff]

/-- The fold takes one character more (R103). -/
theorem foldChars_succ (str : Buffer) (n : Nat) :
    foldChars str (n + 1) = foldDigit (foldChars str n) (digitOfChar (readByte str n)) := by
  simp [foldChars, List.range_succ]

theorem anyCharInvalid_eq_false_iff (str : Buffer) (n : Nat) :
    anyCharInvalid str n = false ↔ ∀ k, k < n → isAlphaChar (readByte str k) = true := by
  simp [anyCharInvalid, charInvalid_eq_not]

theorem anyCharInvalid_iff (str : Buffer) (n : Nat) :
    anyCharInvalid str n = true ↔ ∃ k, k < n ∧ charInvalid (readByte str k) = true := by
  simp [anyCharInvalid]

end Sys2Proof.Machine
end

