-- ==== Sys2Proof/Laws/Steps.lean ====
section
/-! SUPPORT. Once for each step: everything it can do. The invariants and frames are proved from these
and need not unfold a step again. -/

namespace Sys2Proof.Machine

@[simp] theorem runSteps_zero (s : State) : runSteps 0 s = .next s := rfl

theorem runSteps_succ (k : Nat) (s : State) :
    runSteps (k + 1) s = match step s with
      | .next t => runSteps k t
      | .fault r => .fault r
      | .refused r => .refused r := rfl

theorem core_run_next (M : Host.Core) (k : Nat) (s t : M.State) (h : M.step s = .next t) :
    M.run (k + 1) s = M.run k t := by
  rw [Host.Core.run, h]

theorem core_run_fault (M : Host.Core) (k : Nat) (s : M.State) (r : M.Fault)
    (h : M.step s = .fault r) : M.run (k + 1) s = .fault r := by
  rw [Host.Core.run, h]

theorem core_run_refused (M : Host.Core) (k : Nat) (s : M.State) (r : M.Refusal)
    (h : M.step s = .refused r) : M.run (k + 1) s = .refused r := by
  rw [Host.Core.run, h]

/-- `runSteps` is the run of the host's interface. -/
theorem runSteps_eq_core_run (k : Nat) (s : State) :
    runSteps k s = Host.Core.run Sys2Proof.core k s := by
  induction k generalizing s with
  | zero => rfl
  | succ k ih =>
    cases h : step s with
    | next t =>
      refine Eq.trans ?_ (core_run_next Sys2Proof.core k s t h).symm
      rw [runSteps, h]
      exact ih t
    | fault r =>
      refine Eq.trans ?_ (core_run_fault Sys2Proof.core k s r h).symm
      rw [runSteps, h]
      rfl
    | refused r =>
      refine Eq.trans ?_ (core_run_refused Sys2Proof.core k s r h).symm
      rw [runSteps, h]
      rfl

theorem runSteps_succ_of_next {s t : State} (h : step s = .next t) (k : Nat) :
    runSteps (k + 1) s = runSteps k t := by
  rw [runSteps_succ, h]

/-- Steps can be taken in two portions. -/
theorem runSteps_add_of_next {k : Nat} {s t : State} (h : runSteps k s = .next t) (j : Nat) :
    runSteps (k + j) s = runSteps j t := by
  induction k generalizing s with
  | zero =>
    cases h
    rw [Nat.zero_add]
  | succ k ih =>
    rw [Nat.add_right_comm, runSteps_succ]
    rw [runSteps_succ] at h
    cases hs : step s with
    | next u => rw [hs] at h; exact ih h
    | fault r => rw [hs] at h; cases h
    | refused r => rw [hs] at h; cases h

/-- `E-DIGIT` where the slot exists (R82). -/
theorem encDigit_of_slot (s : State) (h : 1 ≤ s.e_pos.toNat) (h' : s.e_pos.toNat ≤ 11) :
    encDigit s = .next s.putDigit := by
  rw [encDigit, if_pos ⟨BitVec.le_def.2 (by simpa using h), BitVec.le_def.2 (by simpa using h')⟩]

/-- `E-FINISH` where the slots exist (R83). -/
theorem encFinish_of_slot (s : State) (h : s.e_pos.toNat ≤ 11) :
    encFinish s = .next s.publishString := by
  rw [encFinish, if_pos (BitVec.le_def.2 (by simpa using h))]

/-- Everything a turn of unit `ENC` can do. -/
theorem encStep_cases {s t : State} (h : encStep s = .next t) :
    (s.digitEnabled = true ∧ 1 ≤ s.e_pos.toNat ∧ s.e_pos.toNat ≤ 11 ∧ t = s.putDigit) ∨
    (s.digitEnabled = false ∧ s.encFinishEnabled = true ∧ s.e_pos.toNat ≤ 11 ∧
      t = s.publishString) ∨
    (s.encEnabled = false ∧ t = s) := by
  unfold encStep at h
  split at h
  · rename_i hd
    rw [encDigit] at h
    split at h
    · rename_i hp
      refine .inl ⟨hd, ?_, ?_, ?_⟩
      · simpa using BitVec.le_def.1 hp.1
      · simpa using BitVec.le_def.1 hp.2
      · cases h; rfl
    · cases h
  · rename_i hd
    split at h
    · rename_i hf
      rw [encFinish] at h
      split at h
      · rename_i hp
        refine .inr (.inl ⟨by simpa using hd, hf, ?_, ?_⟩)
        · simpa using BitVec.le_def.1 hp
        · cases h; rfl
      · cases h
    · rename_i hf
      refine .inr (.inr ⟨?_, ?_⟩)
      · simp [State.encEnabled, hd, hf]
      · cases h; rfl

/-- Everything a turn of unit `DEC` can do. -/
theorem decStep_cases (s : State) :
    (s.d_busy = true ∧ lengthInvalid s.d_len = true ∧ decStep s = s.raiseInvalidShiny .length) ∨
    (s.charEnabled = true ∧ charInvalid s.nextChar = true ∧
      decStep s = s.raiseInvalidShiny .character) ∨
    (s.charEnabled = true ∧ charInvalid s.nextChar = false ∧ decStep s = s.foldChar) ∨
    (s.decFinishEnabled = true ∧ decStep s = s.publishValue) ∨
    (s.decEnabled = false ∧ decStep s = s) := by
  by_cases h1 : s.lenFailEnabled = true
  · refine .inl ?_
    have := h1
    simp only [State.lenFailEnabled, Bool.and_eq_true] at this
    exact ⟨this.1, this.2, by simp [decStep, h1]⟩
  by_cases h2 : s.charEnabled = true
  · by_cases hc : charInvalid s.nextChar = true
    · exact .inr (.inl ⟨h2, hc, by simp [decStep, decChar, h1, h2, hc]⟩)
    · exact .inr (.inr (.inl ⟨h2, by simpa using hc, by simp [decStep, decChar, h1, h2, hc]⟩))
  by_cases h3 : s.decFinishEnabled = true
  · exact .inr (.inr (.inr (.inl ⟨h3, by simp [decStep, h1, h2, h3]⟩)))
  · exact .inr (.inr (.inr (.inr ⟨by simp [State.decEnabled, h1, h2, h3],
      by simp [decStep, h1, h2, h3]⟩)))

/-- `exec` answers a next state on every command in every state: the accept, or nothing. -/
theorem exec_cases (i : Instr) (s : State) :
    exec i s = .next s ∨
    (∃ ignored id, i = .encode ignored id ∧ s.e_busy = false ∧
      exec i s = .next (s.encAccept id)) ∨
    (∃ slen str, i = .decode slen str ∧ s.d_busy = false ∧
      exec i s = .next (s.decAccept slen str)) := by
  cases i with
  | encode ignored id =>
    cases h : s.e_busy with
    | true => exact .inl (by simp [exec, execEncode, h])
    | false => exact .inr (.inl ⟨ignored, id, rfl, rfl, by simp [exec, execEncode, h]⟩)
  | decode slen str =>
    cases h : s.d_busy with
    | true => exact .inl (by simp [exec, execDecode, h])
    | false => exact .inr (.inr ⟨slen, str, rfl, rfl, by simp [exec, execDecode, h]⟩)

/-- The state with another port and schedule: what a step may do besides one agent's move. -/
def State.withHost (port : Option CmdWord) (turns : List Move) (s : State) : State :=
  (s.withPort port).withSchedule turns

theorem withHost_self (s : State) : s.withHost s.cmd_port s.schedule = s := rfl

/-- Everything an accept turn can do. -/
theorem acceptStep_cases {s t : State} (h : acceptStep s = .next t) :
    t = s ∨ ∃ port cmd, s.cmd_port = some cmd ∧
      exec (decodeWord cmd) (s.withHost port s.schedule) = .next t := by
  unfold acceptStep at h
  split at h
  · cases h; exact .inl rfl
  · rename_i cmd hc
    refine .inr ?_
    unfold State.takeWord at h
    split at h
    · exact ⟨none, cmd, hc, h⟩
    · exact ⟨s.cmd_port, cmd, hc, h⟩

/-- Everything a step can do: up to the port and the schedule, one agent's move or nothing. `RESET`
happens at its turn alone, and a command runs at an accept turn alone, as the presented word. -/
theorem step_cases {s t : State} (h : step s = .next t) :
    ∃ port turns,
      t = s.withHost port turns ∨
      (s.schedule.head? = some .reset ∧ t = (s.withHost port turns).resetRegisters) ∨
      encStep (s.withHost port turns) = .next t ∨
      t = decStep (s.withHost port turns) ∨
      ∃ cmd, s.acceptTurnNext = true ∧ s.cmd_port = some cmd ∧
        exec (decodeWord cmd) (s.withHost port turns) = .next t := by
  have unit : ∀ r : State, unitTurn r = .next t →
      encStep r = .next t ∨ t = decStep r := by
    intro r hr
    unfold unitTurn at hr
    split at hr
    · exact .inl hr
    · cases hr; exact .inr rfl
  have acc : ∀ turns, acceptStep (s.withSchedule turns) = .next t → ∃ port, t = s.withHost port turns ∨
      ∃ cmd, s.cmd_port = some cmd ∧
        exec (decodeWord cmd) (s.withHost port turns) = .next t := by
    intro turns ha
    rcases acceptStep_cases ha with h | ⟨port, cmd, hc, he⟩
    · exact ⟨s.cmd_port, .inl h⟩
    · exact ⟨port, .inr ⟨cmd, hc, he⟩⟩
  unfold step advance at h
  split at h
  · rename_i hs
    unfold freeTurn at h
    split at h
    · have turn : s.acceptTurnNext = true := by rw [State.acceptTurnNext, hs]
      obtain ⟨port, ht | ⟨cmd, hc⟩⟩ := acc s.schedule h
      · exact ⟨port, s.schedule, .inl ht⟩
      · exact ⟨port, s.schedule, .inr (.inr (.inr (.inr ⟨cmd, turn, hc⟩)))⟩
    · refine ⟨s.cmd_port, s.schedule, ?_⟩
      rw [withHost_self]
      have := unit s h
      tauto
  · rename_i m rest hs
    cases m with
    | reset => cases h; exact ⟨s.cmd_port, rest, .inr (.inl ⟨by rw [hs]; rfl, rfl⟩)⟩
    | present cmd => cases h; exact ⟨some cmd, rest, .inl rfl⟩
    | withdraw => cases h; exact ⟨none, rest, .inl rfl⟩
    | accept =>
      have turn : s.acceptTurnNext = true := by rw [State.acceptTurnNext, hs]; rfl
      obtain ⟨port, ht | ⟨cmd, hc⟩⟩ := acc rest h
      · exact ⟨port, rest, .inl ht⟩
      · exact ⟨port, rest, .inr (.inr (.inr (.inr ⟨cmd, turn, hc⟩)))⟩
    | enc => exact ⟨s.cmd_port, rest, .inr (.inr (.inl h))⟩
    | dec => cases h; exact ⟨s.cmd_port, rest, .inr (.inr (.inr (.inl rfl)))⟩
    | waitEnc =>
      simp only [takeTurn, waitTurn] at h
      split at h
      · cases h; exact ⟨s.cmd_port, rest, .inl rfl⟩
      · refine ⟨s.cmd_port, s.schedule, ?_⟩
        rw [withHost_self]
        have := unit s h
        tauto
    | waitDec =>
      simp only [takeTurn, waitTurn] at h
      split at h
      · cases h; exact ⟨s.cmd_port, rest, .inl rfl⟩
      · refine ⟨s.cmd_port, s.schedule, ?_⟩
        rw [withHost_self]
        have := unit s h
        tauto

end Sys2Proof.Machine
end

