-- ==== Sys2Proof/Tests/Slice0.lean ====
section
/-! SUPPORT. Tests of the model against values of the spec, each with its source, and a witness for the
hypotheses of each obligation: concrete states and operands that meet all of them together. -/

namespace Sys2Proof.Tests

open Sys2Proof.Machine

/-! ### Well-formedness: an ill-formed term for each check -/

/-- R65: no command is ill formed; both formats pass. -/
theorem test_every_command_is_well_formed (i : Instr) : i.wellFormed = true := by
  cases i <;> rfl

/-- R5: the canonical alphabet passes every check. -/
theorem test_canonical_alphabet : alphabetOk alphaTable = true := by decide

/-- R5: 63 entries are refused. -/
theorem test_alphabet_too_short : alphabetSizeOk (alphaTable.drop 1) = false := by decide

/-- R5: a repeated entry is refused. -/
theorem test_alphabet_repeats : alphabetDistinct (0x42 :: alphaTable.drop 1) = false := by decide

/-- R5: an entry that is no printable ASCII character is refused. -/
theorem test_alphabet_unprintable : alphabetPrintable (0x1F :: alphaTable.drop 1) = false := by
  decide

/-- R5: an entry equal to the sentinel is refused. -/
theorem test_alphabet_sentinel : alphabetAvoidsSentinel (0xFF :: alphaTable.drop 1) = false := by
  decide

/-- R65: ignored bits that are not zero go against the recommendation, and make no word ill formed. -/
theorem test_ignored_bits :
    (Instr.encode 1 500).ignoredBitsZero = false ∧
    (Instr.decode 1 #v[0x41, 0x23, 0, 0, 0, 0, 0, 0, 0, 0, 0]).ignoredBitsZero = false ∧
    (Instr.decode 1 #v[0x41, 0, 0, 0, 0, 0, 0, 0, 0, 0, 0]).ignoredBitsZero = true := by decide

/-! ### Decoding: words written out from 30_encoding.md R61 and R62 -/

/-- R61: opcode 0, 28 ignored bits, the 64 bits of `id`. -/
theorem test_decode_encode_word :
    decodeWord (0b0#1 ++ 0xABCDEF1#28 ++ 0x00000000000001F4#64) = .encode 0xABCDEF1 500 := by
  decide

/-- R62: opcode 1, `slen` = 3, then eleven bytes, character 0 first: `CSf`. -/
theorem test_decode_decode_word :
    decodeWord (0b1#1 ++ 0b0011#4 ++ 0x43#8 ++ 0x53#8 ++ 0x66#8 ++ 0#64) =
      .decode 3 #v[0x43, 0x53, 0x66, 0, 0, 0, 0, 0, 0, 0, 0] := by decide

/-- 30_encoding.md section 7: `DEC "P__________"`, encoded. -/
theorem test_encode_worked_word :
    encodeWord (.decode 11 #v[0x50, 0x5F, 0x5F, 0x5F, 0x5F, 0x5F, 0x5F, 0x5F, 0x5F, 0x5F, 0x5F]) =
      0x1B505F5F5F5F5F5F5F5F5F5F#93 := by decide

/-- R6, R60: a number of 94 bits is no command word. -/
theorem test_wide_number : decodeTableWord 96 0x200000000000000000000000 = none := by decide

/-- R63: a string of 20 bytes is presented with `slen` = 15 and its first eleven bytes. -/
theorem test_long_string_saturates :
    decodeCommand zeroBuffer (List.replicate 20 0x41) =
      .decode 15 #v[0x41, 0x41, 0x41, 0x41, 0x41, 0x41, 0x41, 0x41, 0x41, 0x41, 0x41] := by decide

/-! ### Tables: 95_test_vectors.md section 2.4 -/

theorem test_alpha_blocks :
    [0, 25, 26, 51, 52, 61, 62, 63].map alpha =
      [0x41, 0x5A, 0x61, 0x7A, 0x30, 0x39, 0x2D, 0x5F] := by decide

theorem test_rev_outside_the_alphabet :
    [0x00, 0x20, 0x23, 0x24, 0x2B, 0x2C, 0x2E, 0x2F, 0x3A, 0x3D, 0x40, 0x5B, 0x5E, 0x60, 0x7B,
      0x7F, 0x80, 0xFF].all (fun b => rev b == 0xFF) = true := by decide

/-! ### Results: 95_test_vectors.md sections 2.1 and 2.2 -/

/-- `encode(0x112210F47DE98115)` is `BEiEPR96YEV`. -/
theorem test_encode_eleven_characters :
    encodeResult 0x112210F47DE98115 =
      ⟨11, #v[0x42, 0x45, 0x69, 0x45, 0x50, 0x52, 0x39, 0x36, 0x59, 0x45, 0x56]⟩ := by decide

/-- `decode("shinyid")` is `0x2C8629F289D`. -/
theorem test_decode_shinyid :
    decodeResult 7 #v[0x73, 0x68, 0x69, 0x6E, 0x79, 0x69, 0x64, 0, 0, 0, 0] =
      .ok 0x2C8629F289D := by decide

/-! ### One step: two tests per command -/

/-- An encoder with a command in progress. -/
def encoding (id : Ident) (pos : Len) (buf : Buffer) : State :=
  { State.reset with e_busy := true, e_id := id, e_pos := pos, e_buf := buf, schedule := [.enc] }

/-- A decoder with a command in progress. -/
def decoding (slen : Len) (str : Buffer) (pos : Len) (acc : Ident) : State :=
  { State.reset with
    d_busy := true, d_len := slen, d_in := str, d_pos := pos, d_acc := acc, schedule := [.dec] }

/-- The string `H0`. -/
def bytesH0 : Buffer := #v[0x48, 0x30, 0, 0, 0, 0, 0, 0, 0, 0, 0]

/-- The string `1_$_`. -/
def bytesBad : Buffer := #v[0x31, 0x5F, 0x24, 0x5F, 0, 0, 0, 0, 0, 0, 0]

/-- The string `QAAAAAAAAAA`. -/
def bytesQ : Buffer := #v[0x51, 0x41, 0x41, 0x41, 0x41, 0x41, 0x41, 0x41, 0x41, 0x41, 0x41]

/-- The outcome is a next state with the property. -/
def answers (o : Outcome) (p : State → Bool) : Bool :=
  match o with
  | .next t => p t
  | .fault _ => false
  | .refused _ => false

/-- R82, worked example: `e_id` = 500, `e_pos` = 11. -/
theorem test_digit_step :
    answers (step (encoding 500 11 zeroBuffer)) (fun t =>
      t.e_buf = #v[0, 0, 0, 0, 0, 0, 0, 0, 0, 0, 0x30] ∧ t.e_pos = 10 ∧ t.e_id = 7) = true := by
  decide

/-- R83, worked example: `H0` is moved to index 0. -/
theorem test_finish_step :
    answers (step (encoding 0 9 #v[0, 0, 0, 0, 0, 0, 0, 0, 0, 0x48, 0x30])) (fun t =>
      t.e_len = 2 ∧ t.e_str = bytesH0 ∧ t.e_done = true ∧ t.e_busy = false) = true := by decide

/-- R103, worked example of the failing arm: `1_$_` at index 2. -/
theorem test_character_fails :
    answers (step (decoding 4 bytesBad 2 0xD7F)) (fun t =>
      t.d_err = true ∧ t.d_cause = some .character ∧ t.d_acc = 0 ∧ t.d_pos = 2) = true := by
  decide

/-- 41_decode.md section 4, `QAAAAAAAAAA`: the last character shifts bit 58 out past bit 63. -/
theorem test_accumulator_overflows :
    answers (step (decoding 11 bytesQ 10 0x400000000000000)) (fun t =>
      t.d_acc = 0 ∧ t.d_pos = 11 ∧ t.d_busy = true ∧ t.d_err = false) = true := by decide

/-- A word of each row is fetched and run as the first step after reset. -/
theorem test_first_step_after_reset :
    answers (step (State.reset.withFetchWord 96 500)) (fun t =>
      t.e_busy = true ∧ t.e_id = 500 ∧ t.cmd_port = none ∧ t.schedule = []) = true ∧
    answers (step (State.reset.withFetchWord 96 0x124830000000000000000000)) (fun t =>
      t.d_busy = true ∧ t.d_len = 2 ∧ t.d_in = bytesH0) = true := by decide

/-! ### Witnesses: states and operands that meet the hypotheses of the obligations

One per clause that has hypotheses. A witness for an invariant is a state with a command in progress. -/

/-- A decoder that has folded both characters of `H0` meets its invariant. -/
theorem decInv_folded : DecInv (decoding 2 bytesH0 2 500) where
  exclusive := by decide
  error := by decide
  noError := by decide
  blank := by decide
  started := by decide
  folded := fun _ _ => ⟨by decide, by decide, by decide⟩
  result := by decide

/-- A decoder about to look up the bad character of `1_$_` meets its invariant. -/
theorem decInv_bad : DecInv (decoding 4 bytesBad 2 0xD7F) where
  exclusive := by decide
  error := by decide
  noError := by decide
  blank := by decide
  started := by decide
  folded := fun _ _ => ⟨by decide, by decide, by decide⟩
  result := by decide

/-- Both units busy with a fresh command. -/
def bothBusy : State := (State.reset.encAccept 500).decAccept 2 bytesH0

theorem inv_bothBusy : Inv bothBusy where
  enc := (encInv_encAccept 500 State.reset).of_sameEnc
    ⟨rfl, rfl, rfl, rfl, rfl, rfl, rfl⟩
  dec := decInv_decAccept 2 bytesH0 _

/-- The encoder holds the result of 0, and the decoder the outcome of `A`. -/
def bothDone : State :=
  { State.reset with
    e_done := true, e_pos := 10, e_buf := #v[0, 0, 0, 0, 0, 0, 0, 0, 0, 0, 0x41], e_len := 1,
    e_str := #v[0x41, 0, 0, 0, 0, 0, 0, 0, 0, 0, 0], d_done := true, d_len := 1, d_pos := 1,
    d_in := #v[0x41, 0, 0, 0, 0, 0, 0, 0, 0, 0, 0] }

theorem inv_bothDone : Inv bothDone where
  enc :=
    { pos_le := by decide
      exclusive := by decide
      working := fun h => absurd h (by decide)
      result := fun _ => ⟨0, by decide⟩
      blank := by decide }
  dec :=
    { exclusive := by decide
      error := by decide
      noError := by decide
      blank := by decide
      started := by decide
      folded := fun h => absurd h (by decide)
      result := by decide }

theorem witness_OpcodeMapSelectsByMatchAndMask :
    (0x1F4#93 &&& 0x100000000000000000000000#93 = 0) ∧
    (0x124830000000000000000000#93 &&& 0x100000000000000000000000#93 =
      0x100000000000000000000000#93) := by decide

theorem witness_FieldsStandWhereTheFormatsSay :
    (0x0FFFFFFF0000000000000000#93).getLsbD 92 = false ∧
    (0x100000000000000000000000#93).getLsbD 92 = true := by decide

theorem witness_OnlyNumbersOf93BitsAreCommands :
    2 ^ 93 - 1 < 2 ^ 93 ∧ 2 ^ 93 ≤ 2 ^ 93 := by decide

theorem witness_AcceptTurnRunsThePresentedCommand :
    ∃ r s : State, (r.cmd_port = some 500 ∧ r.schedule = [.accept] ∧ cmdReady 500 r = true) ∧
      (s.cmd_port = some 500 ∧ s.schedule = [.accept] ∧ cmdReady 500 s = false) :=
  ⟨State.reset.presenting 500, { bothBusy with cmd_port := some 500, schedule := [.accept] },
    by decide⟩

theorem witness_PlacedWordRunsAsTheNextStep :
    decodeTableWord 96 500 = some (.encode 0 500) ∧ State.reset.e_busy = false ∧
      State.reset.d_busy = false := by decide

theorem witness_CommandForABusyUnitWaits :
    ∃ s : State, s.e_busy = true ∧ s.d_busy = true ∧ s.cmd_port = some 500 ∧
      s.schedule = [.accept] ∧ cmdReady 500 s = false :=
  ⟨{ bothBusy with cmd_port := some 500, schedule := [.accept] }, by decide⟩

theorem witness_PresentingAWordHasNoEffectByItself :
    ∃ r s : State, r.schedule = [.present 500] ∧ s.schedule = [.withdraw] :=
  ⟨State.reset.withSchedule [.present 500], bothBusy.withSchedule [.withdraw], rfl, rfl⟩

theorem witness_WaitEndsWhenTheFlagIsSet :
    (∃ s : State, s.schedule = [.waitEnc] ∧ s.e_done = true) ∧
    (∃ s : State, s.schedule = [.waitDec] ∧ s.d_done = true) ∧
    (∃ s t : State, s.schedule = [.waitEnc] ∧ s.e_done = false ∧ step s = .next t) ∧
    (∃ s t : State, s.schedule = [.waitDec] ∧ s.d_done = false ∧ step s = .next t) :=
  ⟨⟨bothDone.withSchedule [.waitEnc], by decide⟩, ⟨bothDone.withSchedule [.waitDec], by decide⟩,
    ⟨bothBusy.withSchedule [.waitEnc], bothBusy.putDigit.withSchedule [.waitEnc], rfl, rfl, rfl⟩,
    ⟨bothBusy.withSchedule [.waitDec], bothBusy.putDigit.withSchedule [.waitDec], rfl, rfl, rfl⟩⟩

theorem witness_FreeRunningOrder :
    (∃ s : State, s.schedule = [] ∧ s.cmd_port = some 500 ∧ cmdReady 500 s = true) ∧
    (∃ s : State, s.schedule = [] ∧ s.acceptable = false ∧ s.encEnabled = true) ∧
    (∃ s : State, s.schedule = [] ∧ s.acceptable = false ∧ s.encEnabled = false ∧
      s.decEnabled = true) ∧
    (∃ s : State, s.schedule = [] ∧ s.acceptable = false ∧ s.encEnabled = false ∧
      s.decEnabled = false) :=
  ⟨⟨State.reset.withPort (some 500), by decide⟩, ⟨bothBusy, by decide⟩,
    ⟨State.reset.decAccept 2 bytesH0, by decide⟩, ⟨State.reset, by decide⟩⟩

/-- For the statements that ask for an idle unit: EncodeIsAcceptedByAnIdleEncoder,
DecodeIsAcceptedByAnIdleDecoder, ZeroEncodesAsTheOneCharacterA, AcceptedCommandForgetsEarlierOnes, and
the two of the step counts. -/
theorem witness_idle_units :
    bothDone.e_busy = false ∧ bothDone.d_busy = false ∧ State.reset.e_busy = false ∧
      State.reset.d_busy = false := by decide

/-- The two ways `E-DIGIT` is enabled: the first digit of zero, and a later digit. -/
theorem witness_DigitStepStoresOneCharacter :
    (∃ s : State, s.schedule = [.enc] ∧ EncInv s ∧ s.e_busy = true ∧ s.e_pos = 11 ∧ s.e_id = 0) ∧
    (∃ s : State, s.schedule = [.enc] ∧ EncInv s ∧ s.e_busy = true ∧ s.e_pos ≠ 11 ∧
      s.e_id ≠ 0) := by
  refine ⟨⟨encoding 0 11 zeroBuffer, rfl, ?_, rfl, rfl, rfl⟩,
    ⟨encoding 7 10 #v[0, 0, 0, 0, 0, 0, 0, 0, 0, 0, 0x30], rfl, ?_, rfl, by decide, by decide⟩⟩
  · exact (encInv_encAccept 0 State.reset).of_sameEnc ⟨rfl, rfl, rfl, rfl, rfl, rfl, rfl⟩
  · refine ⟨by decide, by decide, fun _ => ⟨500, by decide, fun k h h' => ?_, by decide, by decide⟩,
      by decide, by decide⟩
    replace h : 10 ≤ k := h
    obtain rfl : k = 10 := by omega
    decide

/-- The boundary pointers of `E-FINISH`: one character, and eleven. -/
theorem witness_FinishStepPublishesTheUsedSuffix :
    (∃ s : State, s.schedule = [.enc] ∧ s.e_pos.toNat = 10 ∧ s.e_busy = true ∧ s.e_id = 0 ∧
      s.e_pos ≠ 11) ∧
    (∃ s : State, s.schedule = [.enc] ∧ s.e_pos.toNat = 0 ∧ s.e_busy = true ∧ s.e_id = 0 ∧
      s.e_pos ≠ 11) :=
  ⟨⟨encoding 0 10 zeroBuffer, by decide⟩, ⟨encoding 0 0 zeroBuffer, by decide⟩⟩

/-- The boundary pointers outside the buffer: 12, 15, and below slot 0. -/
theorem witness_PointerOutsideTheBufferStops :
    (∃ s : State, s.schedule = [.enc] ∧ s.e_busy = true ∧ s.e_pos.toNat = 12) ∧
    (∃ s : State, s.schedule = [.enc] ∧ s.e_busy = true ∧ s.e_pos.toNat = 15) ∧
    (∃ s : State, s.schedule = [.enc] ∧ s.e_busy = true ∧ s.e_pos = 0 ∧ s.e_id ≠ 0) :=
  ⟨⟨encoding 0 12 zeroBuffer, by decide⟩, ⟨encoding 1 15 zeroBuffer, by decide⟩,
    ⟨encoding 1 0 zeroBuffer, by decide⟩⟩

/-- The boundary lengths that fail: 0, 12 and 15. -/
theorem witness_InvalidLengthFailsTheDecode :
    (∃ s : State, s.schedule = [.dec] ∧ s.d_busy = true ∧ s.d_len = 0 ∧ DecInv s) ∧
    (∃ s : State, s.schedule = [.dec] ∧ s.d_busy = true ∧ s.d_len.toNat = 12 ∧ DecInv s) ∧
    (∃ s : State, s.schedule = [.dec] ∧ s.d_busy = true ∧ s.d_len.toNat = 15 ∧ DecInv s) :=
  ⟨⟨(State.reset.withSchedule [.dec]).decAccept 0 bytesH0, rfl, rfl, rfl, decInv_decAccept _ _ _⟩,
    ⟨(State.reset.withSchedule [.dec]).decAccept 12 bytesH0, rfl, rfl, rfl,
      decInv_decAccept _ _ _⟩,
    ⟨(State.reset.withSchedule [.dec]).decAccept 15 bytesH0, rfl, rfl, rfl,
      decInv_decAccept _ _ _⟩⟩

/-- A character that folds, at the last index of the longest string, and one that fails. -/
theorem witness_CharacterStepFoldsOrFails :
    (∃ s : State, s.schedule = [.dec] ∧ s.d_busy = true ∧ s.d_len.toNat = 11 ∧
      s.d_pos.toNat = 10 ∧ rev (readByte s.d_in s.d_pos.toNat) ≠ 0xFF) ∧
    (∃ s : State, s.schedule = [.dec] ∧ s.d_busy = true ∧ s.d_len.toNat = 1 ∧
      s.d_pos.toNat = 0 ∧ rev (readByte s.d_in s.d_pos.toNat) = 0xFF) :=
  ⟨⟨decoding 11 bytesQ 10 0, by decide⟩, ⟨decoding 1 zeroBuffer 0 0, by decide⟩⟩

theorem witness_FinishStepPublishesTheValue :
    ∃ s : State, s.schedule = [.dec] ∧ s.d_busy = true ∧ s.d_len.toNat = 2 ∧ s.d_pos = s.d_len ∧
      DecInv s :=
  ⟨decoding 2 bytesH0 2 500, rfl, rfl, rfl, rfl, decInv_folded⟩

theorem witness_EveryErrorCompletionIsTheOneUpdate :
    ∃ s t : State, s.schedule = [.dec] ∧ DecInv s ∧ s.d_busy = true ∧ step s = .next t ∧
      t.d_err = true :=
  ⟨decoding 4 bytesBad 2 0xD7F,
    ((decoding 4 bytesBad 2 0xD7F).raiseInvalidShiny .character).withSchedule [], rfl, decInv_bad,
    rfl, rfl, rfl⟩

theorem witness_EncodeNeverFails : ∃ s : State, EncInv s ∧ s.schedule = [.enc] :=
  ⟨bothBusy.withSchedule [.enc],
    inv_bothBusy.enc.of_sameEnc ⟨rfl, rfl, rfl, rfl, rfl, rfl, rfl⟩, rfl⟩

theorem witness_EncodeResultIsTheDigitsOfTheIdentifier :
    (64 : Ident) ≠ 0 ∧ digitCount 64 = 2 ∧ digitCount 63 = 1 ∧
      digitCount 0xFFFFFFFFFFFFFFFF = 11 := by decide

/-- `ENCODE 500` takes two digits; the accept turn meets a busy encoder and a free decoder. -/
theorem witness_AcceptedEncodeEndsWithItsResult :
    State.reset.e_busy = false ∧
    (∀ m, m ∈ [Move.enc, .present 500, .accept, .dec, .enc, .withdraw] →
      m.leavesCommands = true) ∧
    [Move.enc, .present 500, .accept, .dec, .enc, .withdraw].count .enc = digitCount 500 := by
  decide

/-- `DECODE` of `H0` takes three steps; of `1_$_` also three; of an invalid length one. -/
theorem witness_AcceptedDecodeEndsWithItsOutcome :
    EncInv bothBusy ∧ EncInv (State.reset.encAccept 500) ∧
    (State.reset.encAccept 500).d_busy = false ∧
    (∀ m, m ∈ [Move.dec, .enc, .present 500, .accept, .dec] → m.leavesCommands = true) ∧
    [Move.dec, .enc, .present 500, .accept, .dec].count .dec + 1 = decodeSteps 2 bytesH0 ∧
    [Move.dec, .enc, .present 500, .accept, .dec].count .dec + 1 = decodeSteps 4 bytesBad ∧
    [Move.enc].count .dec + 1 = decodeSteps 12 bytesH0 :=
  ⟨inv_bothBusy.enc, encInv_encAccept _ _, by decide⟩

/-- For EncodeTakesOneStepPerDigitAndOneToFinish and DecodeTakesTheStepsOfItsString: turns on either side
of the last step, for the shortest and the longest commands. -/
theorem witness_step_counts :
    1 ≤ digitCount 0 ∧ digitCount 0 < 2 ∧ 11 ≤ digitCount 0xFFFFFFFFFFFFFFFF ∧
    0 < decodeSteps 0 bytesH0 ∧ decodeSteps 0 bytesH0 ≤ 1 ∧ decodeSteps 11 bytesQ ≤ 12 := by
  decide

theorem witness_DecodedValueIsPositionalModulo64Bits :
    decodeResult 2 bytesH0 = .ok 500 ∧ decodeResult 11 bytesQ = .ok 0 := by decide

theorem witness_AccumulatorLosesWhatLeavesTheTop :
    ∀ k, k < 11 → isAlphaChar (readByte bytesQ k) = true := by decide

theorem witness_DecodeAcceptsMoreThanCanonicalStrings :
    (∀ b, b ∈ [(0x41 : Byte), 0x42] → isAlphaChar b = true) ∧
    1 ≤ [(0x42 : Byte)].length ∧ (List.replicate 10 (0x41 : Byte)).length = 10 ∧
    isAlphaChar 0x41 = true ∧ isAlphaChar 0x51 = true ∧
    (digitOfChar 0x41).toNat % 16 = (digitOfChar 0x51).toNat % 16 ∧
    decodeResult 2 bytesH0 = .ok 500 := by decide

theorem witness_DecodeUndoesEncode :
    ∀ k, k < (encodeResult 500).len.toNat →
      readByte (#v[0x48, 0x30, 0x23, 0, 0, 0, 0, 0, 0, 0, 0xFF]) k =
        readByte (encodeResult 500).str k := by decide

theorem witness_HardwareRoundTripReturnsTheIdentifier :
    Inv bothDone ∧ bothDone.quiescent = true := ⟨inv_bothDone, by decide⟩

theorem witness_EncodedStringsAreShortestAndCanonical :
    (500 : Ident).toNat < 64 ^ 2 ∧ (encodeResult 0).len = 1 ∧
      (encodeResult 0x1000000000000000).len = 11 := by decide

theorem witness_EncodeIsInjective :
    stringOf (encodeResult 500).len (encodeResult 500).str =
      stringOf (encodeResult 500).len (encodeResult 500).str := rfl

theorem witness_CharacterCarriesItsSixBits : 10 < (encodeResult (-1)).len.toNat ∧ 5 < 6 := by
  decide

theorem witness_ReverseTableIsDerivedFromTheAlphabet :
    alpha 62 = 0x2D ∧ ∀ i : Digit, alpha i ≠ 0x23 := by decide

/-- The least and the greatest index of each clause. -/
theorem witness_TablesHoldTheCanonicalAlphabet :
    (0 : Digit).toNat ≤ 25 ∧ (25 : Digit).toNat ≤ 25 ∧ 26 ≤ (26 : Digit).toNat ∧
    (51 : Digit).toNat ≤ 51 ∧ 52 ≤ (52 : Digit).toNat ∧ (61 : Digit).toNat ≤ 61 := by decide

theorem witness_ResetSetsEveryRegister : ∃ s : State, s.schedule = [.reset] ∧ s.e_busy = true :=
  ⟨bothBusy.withSchedule [.reset], by decide⟩

/-- For ResetAbandonsCommandsInProgress and InterleavingOfUnitTurnsDoesNotMatter. -/
theorem witness_unit_turns :
    (∀ m, m ∈ [Move.enc, .dec, .dec] → m.isUnitTurn = true) ∧
      [Move.enc, .dec, .dec].Perm [Move.dec, .enc, .dec] := by decide

/-- For EveryStepKeepsTheInvariant, NoTurnStopsTheBlock and StoredDigitsAndRestMakeTheIdentifier (the
encoder of the state is busy). -/
theorem witness_EveryStepKeepsTheInvariant : ∃ s t : State, Inv s ∧ step s = .next t :=
  ⟨bothBusy, bothBusy.putDigit, inv_bothBusy, rfl⟩

theorem witness_BusyUnitHasExactlyOneEnabledStep :
    Inv bothBusy ∧ bothBusy.e_busy = true ∧ bothBusy.d_busy = true ∧
    Inv bothDone ∧ bothDone.e_busy = false ∧ bothDone.d_busy = false :=
  ⟨inv_bothBusy, rfl, rfl, inv_bothDone, rfl, rfl⟩

theorem witness_BlockBecomesQuiescent : Inv bothBusy ∧ bothBusy.schedule = [] :=
  ⟨inv_bothBusy, rfl⟩

theorem witness_EncoderTurnsTouchOnlyTheEncoder :
    ∃ r s t : State, SameEnc r s ∧ r.schedule = [.enc] ∧ s.schedule = [.enc] ∧
      step r = .next t :=
  ⟨bothBusy.withSchedule [.enc], (State.reset.encAccept 500).withSchedule [.enc],
    bothBusy.putDigit, ⟨rfl, rfl, rfl, rfl, rfl, rfl, rfl⟩, rfl, rfl, rfl⟩

theorem witness_DecoderTurnsTouchOnlyTheDecoder :
    ∃ r s t u : State, SameDec r s ∧ r.schedule = [.dec] ∧ s.schedule = [.dec] ∧
      step r = .next t ∧ step s = .next u :=
  ⟨bothBusy.withSchedule [.dec], (State.reset.decAccept 2 bytesH0).withSchedule [.dec],
    bothBusy.foldChar, (State.reset.decAccept 2 bytesH0).foldChar,
    ⟨rfl, rfl, rfl, rfl, rfl, rfl, rfl, rfl, rfl⟩, rfl, rfl, rfl, rfl⟩

/-- `DEC.RAW 1 41 23 ...` of 95_test_vectors.md section 2.2 beside `DEC "A"`. -/
theorem witness_IgnoredCharactersAreNeverSeen :
    SameReadChars 1 #v[0x41, 0x23, 0x23, 0x23, 0x23, 0x23, 0x23, 0x23, 0x23, 0x23, 0x23]
        #v[0x41, 0, 0, 0, 0, 0, 0, 0, 0, 0, 0] ∧
    State.reset.d_busy = false ∧
    ∃ s t u : State, SameButIgnored s t ∧ s.d_in ≠ t.d_in ∧ step s = .next u := by
  have same : SameReadChars 1
      #v[0x41, 0x23, 0x23, 0x23, 0x23, 0x23, 0x23, 0x23, 0x23, 0x23, 0x23]
      #v[0x41, 0, 0, 0, 0, 0, 0, 0, 0, 0, 0] := by
    intro _
    decide
  exact ⟨same, rfl,
    decoding 1 #v[0x41, 0x23, 0x23, 0x23, 0x23, 0x23, 0x23, 0x23, 0x23, 0x23, 0x23] 0 0,
    decoding 1 #v[0x41, 0, 0, 0, 0, 0, 0, 0, 0, 0, 0] 0 0, _, ⟨same, rfl⟩, by decide, rfl⟩

/-- A state keeps its invariant under another port and schedule. -/
theorem inv_bothDone_withHost (port : Option CmdWord) (turns : List Move) :
    Inv (bothDone.withHost port turns) :=
  ⟨inv_bothDone.enc.of_sameEnc ⟨rfl, rfl, rfl, rfl, rfl, rfl, rfl⟩,
    inv_bothDone.dec.of_sameDec ⟨rfl, rfl, rfl, rfl, rfl, rfl, rfl, rfl, rfl⟩⟩

/-- Both outcomes stand, and in turn: unit `ENC` moves; an accept turn has no word; a `DECODE` is
accepted; an `ENCODE` is accepted; no turn is laid down. -/
theorem witness_OutcomesLastUntilAcceptOrReset :
    (∀ port turns, Inv (bothDone.withHost port turns) ∧
      (bothDone.withHost port turns).e_done = true ∧ (bothDone.withHost port turns).d_done = true) ∧
    (∃ s t : State, s = bothDone.withHost none [.enc] ∧ step s = .next t ∧
      s.acceptTurnNext = false) ∧
    (∃ s t : State, s = bothDone.withHost none [.accept] ∧ step s = .next t ∧
      s.acceptTurnNext = true ∧ s.acceptsEncode = false ∧ s.acceptsDecode = false) ∧
    (∃ s t : State, s = bothDone.withHost (some 0x124830000000000000000000) [.accept] ∧
      step s = .next t ∧ s.acceptTurnNext = true ∧ s.acceptsEncode = false ∧
      s.acceptsDecode = true) ∧
    (∃ s t : State, s = bothDone.withHost (some 500) [.accept] ∧ step s = .next t ∧
      s.acceptTurnNext = true ∧ s.acceptsEncode = true ∧ s.acceptsDecode = false) ∧
    (∃ s t : State, s = bothDone.withHost none [] ∧ step s = .next t ∧
      s.acceptTurnNext = true ∧ s.acceptsEncode = false ∧ s.acceptsDecode = false) :=
  ⟨fun port turns => ⟨inv_bothDone_withHost port turns, rfl, rfl⟩,
    ⟨_, bothDone, rfl, rfl, rfl⟩, ⟨_, bothDone, rfl, rfl, rfl, rfl, rfl⟩,
    ⟨_, bothDone.decAccept 2 bytesH0, rfl, rfl, rfl, rfl, rfl⟩,
    ⟨_, bothDone.encAccept 500, rfl, rfl, rfl, rfl, rfl⟩,
    ⟨_, bothDone, rfl, rfl, rfl, rfl, rfl⟩⟩

/-- The encoder holds the result of 0, and the decoder the error of a string: `1_$_` fails by its
character, a string of length 0 by its length. -/
def doneWithError (slen pos : Len) (str : Buffer) (cause : ShinyError) : State :=
  { bothDone with d_len := slen, d_in := str, d_pos := pos }.raiseInvalidShiny cause

theorem inv_characterError : Inv (doneWithError 4 2 bytesBad .character) where
  enc := inv_bothDone.enc.of_sameEnc ⟨rfl, rfl, rfl, rfl, rfl, rfl, rfl⟩
  dec :=
    { exclusive := by decide
      error := by decide
      noError := by decide
      blank := by decide
      started := by decide
      folded := fun h => absurd h (by decide)
      result := by decide }

theorem inv_lengthError : Inv (doneWithError 0 0 bytesBad .length) where
  enc := inv_bothDone.enc.of_sameEnc ⟨rfl, rfl, rfl, rfl, rfl, rfl, rfl⟩
  dec :=
    { exclusive := by decide
      error := by decide
      noError := by decide
      blank := by decide
      started := by decide
      folded := fun h => absurd h (by decide)
      result := by decide }

/-- Both causes, a success and a command in progress, each in a state with the whole invariant; the codes
are those of the port table of R71. -/
theorem witness_PortsShowTheState :
    (Inv (doneWithError 4 2 bytesBad .character) ∧
      (doneWithError 4 2 bytesBad .character).d_err = true ∧
      (doneWithError 4 2 bytesBad .character).ports.dec_cause = 2) ∧
    (Inv (doneWithError 0 0 bytesBad .length) ∧
      (doneWithError 0 0 bytesBad .length).d_err = true ∧
      (doneWithError 0 0 bytesBad .length).ports.dec_cause = 1) ∧
    (Inv bothDone ∧ bothDone.ports.enc_done = true ∧ bothDone.ports.dec_err = false ∧
      bothDone.ports.dec_cause = 0) ∧
    Inv bothBusy ∧ bothBusy.ports.enc_done = false ∧ bothBusy.ports.dec_done = false :=
  ⟨⟨inv_characterError, rfl, rfl⟩, ⟨inv_lengthError, rfl, rfl⟩, ⟨inv_bothDone, rfl, rfl, rfl⟩,
    inv_bothBusy, rfl, rfl⟩

end Sys2Proof.Tests
end

section
/-! The reset turn (10_state.md R33, 70_reset_and_hazards.md R140). -/

namespace Sys2Proof.Machine

/-- The next step takes the turn laid down first. -/
theorem step_cons {s : State} {m : Move} {rest : List Move} (h : s.schedule = m :: rest) :
    step s = takeTurn m rest s :=
  advance_cons s m rest h

/-- `RESET` has no guard: in every state its turn resets the registers (R140). -/
theorem step_reset {s : State} {rest : List Move} (h : s.schedule = .reset :: rest) :
    step s = .next (s.withSchedule rest).resetRegisters :=
  step_cons h

/-- A block with both units idle is ready for a word of either opcode (R70). -/
theorem cmdReady_of_idle {s : State} (he : s.e_busy = false) (hd : s.d_busy = false)
    (cmd : CmdWord) : cmdReady cmd s = true := by
  unfold cmdReady
  cases opcodeBit cmd with
  | false => simp [he]
  | true => simp [hd]

/-- Settles O41: the state a reset turn answers is known from `step_reset`, so each register is read off
by the law of its field, and both units are idle in it. -/
theorem resetSetsEveryRegister : Obligations.ResetSetsEveryRegister := by
  intro s rest hs
  refine ⟨_, step_reset hs, ?_⟩
  have ready := cmdReady_of_idle (State.resetRegisters_e_busy (s.withSchedule rest))
    (State.resetRegisters_d_busy (s.withSchedule rest))
  simp [ready]

end Sys2Proof.Machine
end

section
/-! The reverse table is the inverse of the alphabet (20_memory.md R43, R44). -/

namespace Sys2Proof.Machine

/-- The bytes of the alphabet are exactly the entries of `ALPHA` (R43). -/
theorem isAlphaChar_iff_exists_alpha (b : Byte) :
    isAlphaChar b = true ↔ ∃ i : Digit, alpha i = b := by
  constructor
  · exact fun h => ⟨digitOfChar b, alpha_digitOfChar b h⟩
  · rintro ⟨i, rfl⟩
    exact isAlphaChar_alpha i

/-- `REV` holds the sentinel exactly at the bytes that are no entry of `ALPHA` (R44). -/
theorem rev_eq_sentinel_iff (b : Byte) : rev b = Config.sentinel ↔ ∀ i : Digit, alpha i ≠ b := by
  rw [← not_exists, ← isAlphaChar_iff_exists_alpha]
  simp [isAlphaChar]

/-- Settles O40: at an entry of `ALPHA` by `rev_alpha`, at every other byte by `rev_eq_sentinel_iff`. -/
theorem reverseTableIsDerivedFromTheAlphabet : Obligations.ReverseTableIsDerivedFromTheAlphabet := by
  constructor
  · rintro b i rfl
    exact rev_alpha i
  · intro b notInAlphabet
    exact (rev_eq_sentinel_iff b).mpr notInAlphabet

end Sys2Proof.Machine
end

section
/-! The layout of command words: the opcode map and the fields of formats `E` and `D` (30_encoding.md
R61, R62, R64). -/

namespace Sys2Proof.Machine

theorem decodeWord_of_opcode_clear {cmd : CmdWord} (h : cmd.getLsbD 92 = false) :
    decodeWord cmd = .encode (cmd.extractLsb' 64 28) (cmd.extractLsb' 0 64) := by
  rw [decodeWord, opcodeBit, h]

theorem decodeWord_of_opcode_set {cmd : CmdWord} (h : cmd.getLsbD 92 = true) :
    decodeWord cmd = .decode (cmd.extractLsb' 88 4) (unpackChars (cmd.extractLsb' 0 88)) := by
  rw [decodeWord, opcodeBit, h]

/-- The first row of the opcode map: `match = 0` (R64). -/
theorem opcodeMask_eq_zero_iff (cmd : CmdWord) :
    cmd &&& 0x100000000000000000000000#93 = 0 ↔ cmd.getLsbD 92 = false := by
  rw [Laws.opcodeMask]
  cases cmd.getLsbD 92 <;> decide

/-- The second row of the opcode map: `match = 1 << 92` (R64). -/
theorem opcodeMask_eq_mask_iff (cmd : CmdWord) :
    cmd &&& 0x100000000000000000000000#93 = 0x100000000000000000000000#93 ↔
      cmd.getLsbD 92 = true := by
  rw [Laws.opcodeMask]
  cases cmd.getLsbD 92 <;> decide

theorem readByte_unpackChars (field : StrField) (k : Nat) (hk : k < 11) :
    readByte (unpackChars field) k = fieldChar field k :=
  readByte_bufferOf (fieldChar field) k hk

/-- Bit `i` of character `k` of a packed field is the field's bit `80 - 8 * k + i` (R48 item 5, R62). -/
theorem getLsbD_fieldChar (field : StrField) (k : Nat) {i : Nat} (hi : i < 8) :
    (fieldChar field k).getLsbD i = field.getLsbD (80 - 8 * k + i) := by
  simp [fieldChar, hi]

/-- Bit `i` of character `k` stands at bit `80 - 8 * k + i` of the packed string (R48 item 5, R71). -/
theorem getLsbD_packChars (str : Buffer) {k i : Nat} (hk : k < 11) (hi : i < 8) :
    (packChars str).getLsbD (80 - 8 * k + i) = (readByte str k).getLsbD i := by
  rw [← getLsbD_fieldChar _ _ hi, fieldChar_packChars str k hk]

theorem unpackChars_packChars (str : Buffer) : unpackChars (packChars str) = str :=
  buffer_ext _ _ fun k hk => by
    rw [readByte_unpackChars _ k hk, fieldChar_packChars str k hk]

/-- Eleven bytes fill the field: its bit `j` is bit `j % 8` of character `10 - j / 8`. -/
theorem packChars_unpackChars (field : StrField) : packChars (unpackChars field) = field := by
  apply BitVec.eq_of_getLsbD_eq
  intro j hj
  have place : 80 - 8 * (10 - j / 8) + j % 8 = j := by omega
  have hk : 10 - j / 8 < 11 := by omega
  have hi : j % 8 < 8 := Nat.mod_lt _ (by norm_num)
  have bit := getLsbD_packChars (unpackChars field) hk hi
  rwa [readByte_unpackChars _ _ hk, getLsbD_fieldChar _ _ hi, place] at bit

/-- A command is read back from its word: both formats put their fields where the decoder takes them
(R61, R62). -/
theorem decodeWord_encodeWord (i : Instr) : decodeWord (encodeWord i) = i := by
  cases i with
  | encode ignored id =>
    have opcode : (encodeWord (.encode ignored id)).getLsbD 92 = false :=
      (opcodeMask_eq_zero_iff _).mp (Laws.opcode.encode ignored id)
    have ignoredField : (encodeWord (.encode ignored id)).extractLsb' 64 28 = ignored :=
      (BitVec.extractLsb'_append_eq_of_le le_rfl).trans BitVec.extractLsb'_append_eq_right
    have idField : (encodeWord (.encode ignored id)).extractLsb' 0 64 = id :=
      BitVec.extractLsb'_append_eq_right
    rw [decodeWord_of_opcode_clear opcode, ignoredField, idField]
  | decode slen str =>
    have opcode : (encodeWord (.decode slen str)).getLsbD 92 = true :=
      (opcodeMask_eq_mask_iff _).mp (Laws.opcode.decode slen str)
    have slenField : (encodeWord (.decode slen str)).extractLsb' 88 4 = slen :=
      (BitVec.extractLsb'_append_eq_of_le le_rfl).trans BitVec.extractLsb'_append_eq_right
    have strField : (encodeWord (.decode slen str)).extractLsb' 0 88 = packChars str :=
      BitVec.extractLsb'_append_eq_right
    rw [decodeWord_of_opcode_set opcode, slenField, strField, unpackChars_packChars]

/-- Settles O4: the two rows are the two values of `cmd[92]`, and the string of the second row is the
one whose packing is `cmd[87:0]`. -/
theorem opcodeMapSelectsByMatchAndMask : Obligations.OpcodeMapSelectsByMatchAndMask := by
  intro cmd
  rw [opcodeMask_eq_zero_iff, opcodeMask_eq_mask_iff]
  refine ⟨decodeWord_of_opcode_clear, fun h => ?_, ?_⟩
  · exact ⟨_, decodeWord_of_opcode_set h, packChars_unpackChars _⟩
  · cases cmd.getLsbD 92 <;> simp [Xor]

/-- Settles O5: bit `i` of a field that starts at bit `lo` is bit `lo + i` of the word, and the meaning
of `ENCODE` does not mention its ignored bits. -/
theorem fieldsStandWhereTheFormatsSay : Obligations.FieldsStandWhereTheFormatsSay := by
  refine ⟨fun cmd h => ?_, fun _ _ _ _ => rfl, fun cmd h => ?_⟩
  · refine ⟨_, _, decodeWord_of_opcode_clear h, fun i hi => ?_, fun i hi => ?_⟩
    · simp [hi]
    · simp [hi]
  · refine ⟨_, _, decodeWord_of_opcode_set h, fun i hi => ?_, fun k i hk hi => ?_⟩
    · simp [hi]
    · have inField : 80 - 8 * k + i < 88 := by omega
      rw [readByte_unpackChars _ k (by omega), getLsbD_fieldChar _ k hi]
      simp [inField]

end Sys2Proof.Machine
end

section
/-! The ports of the block (30_encoding.md R70, R71), and what the invariants say of the results they
show (10_state.md R14, R15, R24, R26). -/

namespace Sys2Proof.Machine

/-- `cmd_ready` follows the opcode bit (R70). -/
theorem cmdReady_eq (cmd : CmdWord) (s : State) :
    cmdReady cmd s = if cmd.getLsbD 92 then !s.d_busy else !s.e_busy := by
  unfold cmdReady opcodeBit
  cases cmd.getLsbD 92 <;> rfl

/-- The number of digits is 1 to 11 (R80). -/
theorem digitCount_bounds (id : Ident) : 1 ≤ digitCount id ∧ digitCount id ≤ 11 := by
  unfold digitCount
  cases h : (List.range' 1 11).find? fun n => decide (id.toNat < 64 ^ n) with
  | none => decide
  | some n =>
    have := List.mem_range'_1.mp (List.mem_of_find?_eq_some h)
    simp only [Option.getD_some]
    omega

theorem encodeResult_len_toNat (id : Ident) : (encodeResult id).len.toNat = digitCount id := by
  have := digitCount_bounds id
  simp only [encodeResult, BitVec.toNat_ofNat]
  omega

/-- The bytes past the string are 0x00 (R80). -/
theorem readByte_encodeResult_padding (id : Ident) {k : Nat} (h : digitCount id ≤ k) :
    readByte (encodeResult id).str k = 0 := by
  by_cases hk : k < 11
  · rw [encodeResult, readByte_bufferOf _ _ hk, if_neg (by omega)]
  · exact readByte_of_ge _ _ (by omega)

/-- A result of `ENCODE` is 1 to 11 characters long (R14). -/
theorem EncInv.len_bounds {s : State} (h : EncInv s) (done : s.e_done = true) :
    1 ≤ s.e_len.toNat ∧ s.e_len.toNat ≤ 11 := by
  obtain ⟨id, hres⟩ := h.result done
  have len : s.e_len.toNat = digitCount id := by rw [← encodeResult_len_toNat, hres]
  rw [len]
  exact digitCount_bounds id

/-- Bytes of `e_str` at index `e_len` and above are 0x00, with a result or without one (R15). -/
theorem EncInv.str_padding {s : State} (h : EncInv s) {k : Nat} (hk : s.e_len.toNat ≤ k) :
    readByte s.e_str k = 0 := by
  cases done : s.e_done with
  | true =>
    obtain ⟨id, hres⟩ := h.result done
    have past : digitCount id ≤ k := by rwa [← encodeResult_len_toNat, hres]
    have := readByte_encodeResult_padding id past
    rwa [hres] at this
  | false =>
    rw [(h.blank done).2, readByte_zeroBuffer]

/-- The code of a cause is 1 or 2 (R26). -/
theorem causeCode_of_ne_none {c : Option ShinyError} (h : c ≠ none) :
    causeCode c = 1 ∨ causeCode c = 2 := by
  rcases c with _ | _ | _
  · exact absurd rfl h
  · exact .inl rfl
  · exact .inr rfl

/-- `d_val` is 0 unless a `DECODE` ended without error (R24). -/
theorem DecInv.val_eq_zero {s : State} (h : DecInv s) (out : s.d_done = false ∨ s.d_err = true) :
    s.d_val = 0 := by
  rcases out with notDone | err
  · exact h.blank notDone
  · exact (h.error err).2.2

/-- The `DECODE` word made of the result ports is the command that decodes the result (R71). -/
theorem decodeWord_ports (s : State) :
    decodeWord s.ports.decodeWord = .decode s.e_len s.e_str :=
  decodeWord_encodeWord (.decode s.e_len s.e_str)

theorem ports_dec_cause (s : State) : s.ports.dec_cause = causeCode s.d_cause := rfl

/-- Settles O55: each port is a register or its packing or its code, and the values they may take are
those the invariants of the two units allow. -/
theorem portsShowTheState : Obligations.PortsShowTheState := by
  intro s
  refine ⟨fun cmd => cmdReady_eq cmd s, rfl, rfl, rfl,
    fun k i hk hi => getLsbD_packChars s.e_str (by omega) hi, rfl, rfl, rfl, ?_, rfl,
    decodeWord_ports s, fun ⟨enc, dec⟩ => ?_⟩
  · rw [ports_dec_cause]
    rcases s.d_cause with _ | _ | _ <;> rfl
  · refine ⟨enc.len_bounds, fun notDone => (enc.blank notDone).1,
      fun k hk _ => enc.str_padding hk, fun err => ?_, fun noErr => ?_, dec.val_eq_zero⟩
    · obtain ⟨-, cause, -⟩ := dec.error err
      exact causeCode_of_ne_none cause
    · rw [ports_dec_cause, dec.noError noErr]
      rfl

end Sys2Proof.Machine
end

section
/-! The commands and steps of unit `ENC` one at a time: the accept, `E-DIGIT`, `E-FINISH`, and the zero
case, which takes each of them once (40_encode.md R81 to R83, R85). -/

namespace Sys2Proof.Machine

/-- An idle encoder accepts every operand (R81). -/
theorem exec_encode_of_idle (ignored : BitVec 28) (id : Ident) {s : State}
    (idle : s.e_busy = false) : exec (.encode ignored id) s = .next (s.encAccept id) := by
  simp [exec, execEncode, idle]

/-- `E-FINISH` and `E-DIGIT` are not enabled together: `E-FINISH` asks for `e_id = 0` and a pointer other
than 11, `E-DIGIT` for the opposite of one of them (R82, R83). -/
theorem digitEnabled_eq_false_of_encFinishEnabled {s : State} (enabled : s.encFinishEnabled = true) :
    s.digitEnabled = false := by
  obtain ⟨-, noDigits, pos_ne⟩ := (encFinishEnabled_iff s).mp enabled
  rw [← Bool.not_eq_true, digitEnabled_iff]
  rintro ⟨-, digitLeft | empty⟩
  · exact digitLeft noDigits
  · exact pos_ne empty

/-- An `enc` turn takes `E-DIGIT` where it is enabled and its slot exists (R82). -/
theorem step_enc_of_digitEnabled {s : State} {rest : List Move} (turn : s.schedule = .enc :: rest)
    (enabled : s.digitEnabled = true) (pos_ge : 1 ≤ s.e_pos.toNat) (pos_le : s.e_pos.toNat ≤ 11) :
    step s = .next (s.withSchedule rest).putDigit := by
  have enabled' : (s.withSchedule rest).digitEnabled = true := enabled
  calc step s = encStep (s.withSchedule rest) := step_cons turn
    _ = encDigit (s.withSchedule rest) := by rw [encStep, if_pos enabled']
    _ = .next (s.withSchedule rest).putDigit := encDigit_of_slot _ pos_ge pos_le

/-- An `enc` turn takes `E-FINISH` where it is enabled and its slots exist (R83). -/
theorem step_enc_of_encFinishEnabled {s : State} {rest : List Move}
    (turn : s.schedule = .enc :: rest) (enabled : s.encFinishEnabled = true)
    (pos_le : s.e_pos.toNat ≤ 11) : step s = .next (s.withSchedule rest).publishString := by
  have enabled' : (s.withSchedule rest).encFinishEnabled = true := enabled
  have notDigit := digitEnabled_eq_false_of_encFinishEnabled enabled'
  calc step s = encStep (s.withSchedule rest) := step_cons turn
    _ = encFinish (s.withSchedule rest) := by simp [encStep, notDigit, enabled']
    _ = .next (s.withSchedule rest).publishString := encFinish_of_slot _ pos_le

/-- With all eleven slots filled no digit of the identifier is left (R17 item 2). -/
theorem EncWorking.e_id_eq_zero_of_full {id0 : Ident} {s : State} (h : EncWorking id0 s)
    (full : s.e_pos = 0) : s.e_id = 0 := by
  rw [h.rest, full, shiftDigits_eq_zero_iff]
  exact id0.isLt.trans (by decide)

/-- `e_pos - 1` never underflows where `E-DIGIT` is enabled (R82). -/
theorem EncInv.one_le_pos_of_digitEnabled {s : State} (h : EncInv s)
    (enabled : s.digitEnabled = true) : 1 ≤ s.e_pos.toNat := by
  obtain ⟨busy, digitLeft | empty⟩ := (digitEnabled_iff s).mp enabled
  · obtain ⟨id0, working⟩ := h.working busy
    refine Nat.pos_of_ne_zero fun full => digitLeft (working.e_id_eq_zero_of_full ?_)
    exact BitVec.eq_of_toNat_eq full
  · simp [empty]

/-- The slot `E-DIGIT` fills, `e_pos - 1`, as a number. -/
theorem pos_sub_one_toNat {pos : Len} (h : 1 ≤ pos.toNat) : (pos - 1).toNat = pos.toNat - 1 :=
  BitVec.toNat_sub_of_le (BitVec.le_def.mpr h)

/-- The length `E-FINISH` publishes, `11 - e_pos`, as a number. -/
theorem eleven_sub_pos_toNat {pos : Len} (h : pos.toNat ≤ 11) : (11 - pos).toNat = 11 - pos.toNat :=
  BitVec.toNat_sub_of_le (BitVec.le_def.mpr h)

/-- `E-DIGIT` writes the character of the low digit to slot `e_pos - 1` (R82). -/
theorem readByte_putDigit_self {s : State} (pos_ge : 1 ≤ s.e_pos.toNat)
    (pos_le : s.e_pos.toNat ≤ 11) :
    readByte s.putDigit.e_buf (s.e_pos.toNat - 1) = alpha (lowDigit s.e_id) := by
  rw [State.putDigit_e_buf, pos_sub_one_toNat pos_ge]
  exact readByte_writeByte_self _ _ _ (by omega)

/-- `E-DIGIT` leaves every other slot alone (R82). -/
theorem readByte_putDigit_ne {s : State} (pos_ge : 1 ≤ s.e_pos.toNat) {k : Nat}
    (other : k ≠ s.e_pos.toNat - 1) : readByte s.putDigit.e_buf k = readByte s.e_buf k := by
  rw [State.putDigit_e_buf, pos_sub_one_toNat pos_ge]
  exact readByte_writeByte_ne _ _ _ _ other.symm

/-- Settles O16: the invariant keeps the pointer above 0, so the turn takes `E-DIGIT`, whose writes are
those of `putDigit`. -/
theorem digitStepStoresOneCharacter : Obligations.DigitStepStoresOneCharacter := by
  intro s rest turn inv busy guard
  have enabled : s.digitEnabled = true := (digitEnabled_iff s).mpr ⟨busy, guard⟩
  have pos_ge := inv.one_le_pos_of_digitEnabled enabled
  exact ⟨pos_ge, s.putDigit.e_buf, readByte_putDigit_self pos_ge inv.pos_le,
    fun _ other => readByte_putDigit_ne pos_ge other,
    step_enc_of_digitEnabled turn enabled pos_ge inv.pos_le⟩

/-- Settles O14: the state of the accept, written out. -/
theorem encodeIsAcceptedByAnIdleEncoder : Obligations.EncodeIsAcceptedByAnIdleEncoder :=
  fun ignored id _ idle => exec_encode_of_idle ignored id idle

/-- Settles O17: the turn takes `E-FINISH`; a pointer in range other than 11 leaves a used suffix of at
least one character, which `usedSuffix` moves to index 0 and pads. -/
theorem finishStepPublishesTheUsedSuffix : Obligations.FinishStepPublishesTheUsedSuffix := by
  intro s rest turn pos_le busy noDigits pos_ne
  have enabled : s.encFinishEnabled = true := (encFinishEnabled_iff s).mpr ⟨busy, noDigits, pos_ne⟩
  have len := eleven_sub_pos_toNat pos_le
  have pos_ne' : s.e_pos.toNat ≠ 11 := fun h => pos_ne (BitVec.eq_of_toNat_eq h)
  refine ⟨11 - s.e_pos, usedSuffix s.e_buf s.e_pos.toNat, len, by omega, fun k below => ?_,
    fun k beyond _ => ?_, step_enc_of_encFinishEnabled turn enabled pos_le⟩
  · exact readByte_usedSuffix _ _ _ (len ▸ below)
  · exact readByte_usedSuffix_padding _ _ _ (len ▸ beyond)

/-- Settles O24: the pointer 11 of a fresh command enables `E-DIGIT` although the identifier is zero;
that step leaves the identifier zero and the pointer at 10, which enables `E-FINISH`, and the used suffix
is then slot 10 alone. -/
theorem zeroEncodesAsTheOneCharacterA : Obligations.ZeroEncodesAsTheOneCharacterA := by
  intro ignored s idle
  have digit := step_enc_of_digitEnabled (s := (s.encAccept 0).withSchedule [.enc, .enc]) rfl
    ((digitEnabled_iff _).mpr ⟨rfl, .inr rfl⟩) (by simp) (by simp)
  have finish := step_enc_of_encFinishEnabled
    (s := ((s.encAccept 0).withSchedule [.enc]).putDigit) rfl
    ((encFinishEnabled_iff _).mpr ⟨rfl, by simp [dropDigit], by simp⟩) (by simp)
  have stored : readByte ((s.encAccept 0).withSchedule [.enc]).putDigit.e_buf 10 = alpha 0 := by
    simpa [lowDigit] using
      readByte_putDigit_self (s := (s.encAccept 0).withSchedule [.enc]) (by simp) (by simp)
  have published := (readByte_usedSuffix _ 10 0 (by decide)).trans stored
  exact ⟨_, _, _, exec_encode_of_idle ignored 0 idle, digit, stored, by simp, by simp [dropDigit],
    by simp, finish, by simp, by simpa using published, by simp, by simp⟩

end Sys2Proof.Machine
end

section
/-! The commands and steps of unit `DEC` one at a time: the accept, `D-LENFAIL`, `D-CHAR` and `D-FINISH`
(41_decode.md R101 to R103, R105). -/

namespace Sys2Proof.Machine

/-- An idle decoder accepts every operand (R101). -/
theorem exec_decode_of_idle (slen : Len) (str : Buffer) {s : State} (idle : s.d_busy = false) :
    exec (.decode slen str) s = .next (s.decAccept slen str) := by
  simp [exec, execDecode, idle]

/-- A `dec` turn takes the enabled step of unit `DEC`, and never stops. -/
theorem step_dec {s : State} {rest : List Move} (turn : s.schedule = .dec :: rest) :
    step s = .next (decStep (s.withSchedule rest)) :=
  step_cons turn

theorem lenFailEnabled_iff (s : State) :
    s.lenFailEnabled = true ↔ s.d_busy = true ∧ lengthInvalid s.d_len = true := by
  simp [State.lenFailEnabled]

/-- The length is checked first (R122). -/
theorem decStep_of_lenFailEnabled {s : State} (enabled : s.lenFailEnabled = true) :
    decStep s = s.raiseInvalidShiny .length :=
  if_pos enabled

/-- A unit of valid length does not take `D-LENFAIL` (R102). -/
theorem lenFailEnabled_eq_false_of_valid {s : State} (valid : lengthInvalid s.d_len = false) :
    s.lenFailEnabled = false := by
  simp [State.lenFailEnabled, valid]

/-- `D-CHAR` is the step taken where it is enabled (R103). -/
theorem decStep_of_charEnabled {s : State} (enabled : s.charEnabled = true) :
    decStep s = decChar s := by
  obtain ⟨-, valid, -⟩ := (charEnabled_iff s).mp enabled
  simp [decStep, lenFailEnabled_eq_false_of_valid valid, enabled]

/-- `D-FINISH` is the step taken where it is enabled: with `d_pos = d_len` no character is left for
`D-CHAR` (R103, R105). -/
theorem decStep_of_decFinishEnabled {s : State} (enabled : s.decFinishEnabled = true) :
    decStep s = s.publishValue := by
  obtain ⟨-, valid, atEnd⟩ := (decFinishEnabled_iff s).mp enabled
  have noChar : s.charEnabled = false := by simp [State.charEnabled, atEnd]
  simp [decStep, lenFailEnabled_eq_false_of_valid valid, noChar, enabled]

theorem charInvalid_iff_rev (b : Byte) : charInvalid b = true ↔ rev b = 0xFF := by
  simp [charInvalid]

theorem isAlphaChar_iff_rev (b : Byte) : isAlphaChar b = true ↔ rev b ≠ 0xFF := by
  simp [isAlphaChar]

/-- The failing arm of `D-CHAR` (R103). -/
theorem decChar_of_sentinel {s : State} (bad : rev (readByte s.d_in s.d_pos.toNat) = 0xFF) :
    decChar s = s.raiseInvalidShiny .character :=
  if_pos ((charInvalid_iff_rev _).mpr bad)

/-- The succeeding arm of `D-CHAR` (R103). -/
theorem decChar_of_ne_sentinel {s : State} (good : rev (readByte s.d_in s.d_pos.toNat) ≠ 0xFF) :
    decChar s = s.foldChar :=
  if_neg fun bad => good ((charInvalid_iff_rev _).mp bad)

/-- An entry of `REV` other than the sentinel is a digit (R43). -/
theorem rev_le_of_ne_sentinel {b : Byte} (good : rev b ≠ 0xFF) : (rev b).toNat ≤ 0x3F :=
  BitVec.le_def.mp ((rev_range b).resolve_left good)

/-- Settles O15: the state of the accept, written out. -/
theorem decodeIsAcceptedByAnIdleDecoder : Obligations.DecodeIsAcceptedByAnIdleDecoder :=
  fun slen str _ idle => exec_decode_of_idle slen str idle

/-- Settles O19: the other two guards ask for a valid length, and a command whose length is invalid still
stands where the accept left it. -/
theorem invalidLengthFailsTheDecode : Obligations.InvalidLengthFailsTheDecode := by
  intro s rest turn busy badLength
  have invalid : lengthInvalid s.d_len = true := (lengthInvalid_iff _).mpr badLength
  have enabled : (s.withSchedule rest).lenFailEnabled = true :=
    (lenFailEnabled_iff _).mpr ⟨busy, invalid⟩
  refine ⟨?_, ?_, fun inv => inv.started busy invalid, ?_⟩
  · simp [State.charEnabled, invalid]
  · simp [State.decFinishEnabled, invalid]
  · rw [step_dec turn, decStep_of_lenFailEnabled enabled]
    rfl

/-- Settles O20: the turn takes `D-CHAR`, and the look-up decides between its two arms. -/
theorem characterStepFoldsOrFails : Obligations.CharacterStepFoldsOrFails := by
  intro s rest turn busy len_ge len_le pos_lt
  have valid := (lengthInvalid_eq_false_iff s.d_len).mpr ⟨len_ge, len_le⟩
  have enabled : (s.withSchedule rest).charEnabled = true :=
    (charEnabled_iff _).mpr ⟨busy, valid, pos_lt⟩
  rw [step_dec turn, decStep_of_charEnabled enabled]
  refine ⟨fun bad => ?_, fun good => ⟨rev_le_of_ne_sentinel good, ?_⟩⟩
  · rw [decChar_of_sentinel (s := s.withSchedule rest) bad]
    rfl
  · have pos : BitVec.ofNat 4 (s.d_pos.toNat + 1) = s.d_pos + 1 := by
      simp [BitVec.ofNat_add]
    rw [decChar_of_ne_sentinel (s := s.withSchedule rest) good, pos]
    rfl

/-- Settles O21: the turn takes `D-FINISH`; the invariant says that the characters below `d_pos`, which
is `d_len`, are of the alphabet. -/
theorem finishStepPublishesTheValue : Obligations.FinishStepPublishesTheValue := by
  intro s rest turn busy len_ge len_le atEnd
  have valid := (lengthInvalid_eq_false_iff s.d_len).mpr ⟨len_ge, len_le⟩
  have enabled : (s.withSchedule rest).decFinishEnabled = true :=
    (decFinishEnabled_iff _).mpr ⟨busy, valid, atEnd⟩
  refine ⟨fun inv k hk => ?_, ?_⟩
  · obtain ⟨-, looked, -⟩ := inv.folded busy valid
    exact (isAlphaChar_iff_rev _).mp (looked k (atEnd ▸ hk))
  · rw [step_dec turn, decStep_of_decFinishEnabled enabled]
    rfl

end Sys2Proof.Machine
end

section
/-! The fold of `DECODE` as arithmetic: the positional value of a string in base 64, and what the 64-bit
accumulator keeps of it (41_decode.md R100, R104). -/

namespace Sys2Proof.Machine

/-- The accumulate step as arithmetic on numbers (R104). -/
theorem foldDigit_toNat (acc : Ident) (digit : Digit) :
    (foldDigit acc digit).toNat = (acc.toNat * 64 + digit.toNat) % 2 ^ 64 := by
  simp [foldDigit_eq, BitVec.toNat_add, BitVec.toNat_mul]

/-- One character more shifts the positional value by one place. -/
theorem positionalValue_succ (str : Buffer) (n : Nat) :
    positionalValue str (n + 1) =
      positionalValue str n * 64 + (digitOfChar (readByte str n)).toNat := by
  have shifted : ∀ k ∈ List.range n,
      (digitOfChar (readByte str k)).toNat * 64 ^ (n + 1 - 1 - k) =
        (digitOfChar (readByte str k)).toNat * 64 ^ (n - 1 - k) * 64 := by
    intro k hk
    have hk : k < n := List.mem_range.mp hk
    rw [mul_assoc, ← pow_succ, show n + 1 - 1 - k = n - 1 - k + 1 by omega]
  simp only [positionalValue, List.range_succ, List.map_append, List.sum_append,
    List.map_congr_left shifted, List.sum_map_mul_right]
  simp

/-- Dropping the last `j` characters divides the positional value by `64 ^ j`. -/
theorem positionalValue_div (str : Buffer) (n j : Nat) :
    positionalValue str (n + j) / 64 ^ j = positionalValue str n := by
  induction j with
  | zero => simp
  | succ j ih =>
    have step : positionalValue str (n + j + 1) / 64 = positionalValue str (n + j) := by
      have := (digitOfChar (readByte str (n + j))).isLt
      rw [positionalValue_succ]
      omega
    rw [← add_assoc, pow_succ', ← Nat.div_div_eq_div_mul, step, ih]

theorem positionalValue_lt (str : Buffer) (n : Nat) : positionalValue str n < 64 ^ n := by
  have := positionalValue_div str 0 n
  rw [zero_add] at this
  exact (Nat.div_eq_zero_iff_lt (by positivity)).mp this

/-- The digit at index `k` of an `n`-character string stands at place `n - 1 - k` of its value. -/
theorem positionalValue_digit (str : Buffer) {n k : Nat} (hk : k < n) :
    positionalValue str n / 64 ^ (n - 1 - k) % 64 = (digitOfChar (readByte str k)).toNat := by
  have := (digitOfChar (readByte str k)).isLt
  have dropped := positionalValue_div str (k + 1) (n - 1 - k)
  rw [show k + 1 + (n - 1 - k) = n by omega] at dropped
  rw [dropped, positionalValue_succ]
  omega

/-- The first digit is what is left when all others are dropped. -/
theorem positionalValue_div_first (str : Buffer) (n : Nat) :
    positionalValue str (n + 1) / 64 ^ n = (digitOfChar (readByte str 0)).toNat := by
  rw [add_comm, positionalValue_div, positionalValue_succ]
  simp [positionalValue]

/-- The fold is the positional value modulo `2^64` (R104). -/
theorem foldChars_toNat (str : Buffer) (n : Nat) :
    (foldChars str n).toNat = positionalValue str n % 2 ^ 64 := by
  induction n with
  | zero => rfl
  | succ n ih =>
    rw [foldChars_succ, foldDigit_toNat, ih, positionalValue_succ]
    omega

/-- Ten digits are at most 60 bits, so the accumulator loses none of them (R104). -/
theorem foldChars_toNat_of_le_ten (str : Buffer) {n : Nat} (hn : n ≤ 10) :
    (foldChars str n).toNat = positionalValue str n := by
  have fits : positionalValue str n < 2 ^ 64 :=
    calc positionalValue str n < 64 ^ n := positionalValue_lt str n
      _ ≤ 64 ^ 10 := Nat.pow_le_pow_right (by norm_num) hn
      _ < 2 ^ 64 := by norm_num
  rw [foldChars_toNat, Nat.mod_eq_of_lt fits]

/-- Eleven digits are 66 bits: the accumulator loses the top two bits of the first digit (R104). -/
theorem foldChars_eleven_toNat_add (str : Buffer) :
    (foldChars str 11).toNat + (digitOfChar (readByte str 0)).toNat / 16 * 2 ^ 64 =
      positionalValue str 11 := by
  have first : positionalValue str 11 / 64 ^ 10 = (digitOfChar (readByte str 0)).toNat :=
    positionalValue_div_first str 10
  rw [foldChars_toNat]
  omega

/-- `DECODE` succeeds exactly on a valid length with alphabet characters below it (R100). -/
theorem decodeResult_eq_ok_iff (slen : Len) (str : Buffer) (value : Ident) :
    decodeResult slen str = .ok value ↔
      lengthInvalid slen = false ∧ (∀ k, k < slen.toNat → isAlphaChar (readByte str k) = true) ∧
        foldChars str slen.toNat = value := by
  rw [← anyCharInvalid_eq_false_iff, decodeResult]
  cases lengthInvalid slen <;> cases anyCharInvalid str slen.toNat <;> simp

/-- Settles O32: up to ten digits fit in the accumulator, and of eleven exactly the top two bits of the
first do not. -/
theorem accumulatorLosesWhatLeavesTheTop : Obligations.AccumulatorLosesWhatLeavesTheTop := by
  refine ⟨foldDigit_toNat, fun str n hn => foldChars_toNat_of_le_ten str hn, fun str chars => ?_,
    by decide, by decide, by decide, by decide⟩
  exact ⟨foldChars str 11, (decodeResult_eq_ok_iff 11 str _).mpr ⟨by decide, chars, rfl⟩,
    foldChars_eleven_toNat_add str⟩

end Sys2Proof.Machine
end

section
/-! What `DECODE` accepts, and which of the accepted strings `ENCODE` gives back (41_decode.md R106). -/

namespace Sys2Proof.Machine

/-- The fold of `decodeString` over a list of bytes, from any value of the accumulator. -/
def foldString (acc : Ident) (str : List Byte) : Ident :=
  str.foldl (fun value b => foldDigit value (digitOfChar b)) acc

/-- A string of valid length is rejected for its characters or folded. -/
theorem decodeString_of_length {str : List Byte} (h1 : 1 ≤ str.length) (h11 : str.length ≤ 11) :
    decodeString str =
      if str.any charInvalid then .invalidShiny .character else .ok (foldString 0 str) := by
  have valid : ¬(str.length = 0 ∨ 11 < str.length) := by omega
  rw [decodeString, if_neg valid, foldString]

theorem foldString_cons (acc : Ident) (b : Byte) (str : List Byte) :
    foldString acc (b :: str) = foldString (foldDigit acc (digitOfChar b)) str := rfl

/-- What stands in the accumulator moves up one place for each character folded in. -/
theorem foldString_eq_add (acc : Ident) (str : List Byte) :
    foldString acc str = acc * 64 ^ str.length + foldString 0 str := by
  induction str generalizing acc with
  | nil => simp [foldString]
  | cons b str ih =>
    rw [foldString_cons, foldString_cons, ih, ih (foldDigit 0 _), foldDigit_eq, foldDigit_eq,
      List.length_cons]
    ring

/-- A leading zero digit leaves the accumulator at zero (R106). -/
theorem foldString_zero_digit (str : List Byte) : foldString 0 (alpha 0 :: str) = foldString 0 str := by
  rw [foldString_cons, digitOfChar_alpha]
  rfl

/-- Ten places up only the low four bits of a digit are left, so first digits that differ by a multiple
of 16 fold to the same value (R104, R106). -/
theorem foldString_first_digit {a b : Byte} {str : List Byte} (len : str.length = 10)
    (same : (digitOfChar a).toNat % 16 = (digitOfChar b).toNat % 16) :
    foldString 0 (a :: str) = foldString 0 (b :: str) := by
  have shifted : foldDigit 0 (digitOfChar a) * 64 ^ 10 = foldDigit 0 (digitOfChar b) * 64 ^ 10 := by
    have ten : ((64 : Ident) ^ 10).toNat = 2 ^ 60 := by decide
    apply BitVec.eq_of_toNat_eq
    rw [BitVec.toNat_mul, BitVec.toNat_mul, foldDigit_toNat, foldDigit_toNat, ten]
    omega
  rw [foldString_cons, foldString_cons, foldString_eq_add, foldString_eq_add (foldDigit 0 _), len,
    shifted]

/-- The digit count is the least number of base-64 digits, and at least 1 (R80). -/
theorem digitCount_spec (id : Ident) :
    id.toNat < 64 ^ digitCount id ∧ (digitCount id = 1 ∨ 64 ^ (digitCount id - 1) ≤ id.toNat) := by
  have bounds := digitCount_bounds id
  unfold digitCount at bounds ⊢
  cases found : (List.range' 1 11).find? fun n => decide (id.toNat < 64 ^ n) with
  | none =>
    have fits : id.toNat < 64 ^ 11 := id.isLt.trans (by decide)
    exact absurd (decide_eq_true fits) (List.find?_eq_none.mp found 11 (by decide))
  | some n =>
    obtain ⟨fits, -, least⟩ := List.find?_range'_eq_some.mp found
    simp only [found, Option.getD_some] at bounds ⊢
    refine ⟨by simpa using fits, ?_⟩
    by_cases one : n = 1
    · exact .inl one
    · exact .inr (by simpa using least (n - 1) (by omega) (by omega))

/-- Character `k` of the result of `ENCODE` is that of the digit at place `n - 1 - k` (R80). -/
theorem readByte_encodeResult (id : Ident) {k : Nat} (hk : k < digitCount id) :
    readByte (encodeResult id).str k = alpha (digitAt id (digitCount id - 1 - k)) := by
  have := digitCount_bounds id
  rw [encodeResult, readByte_bufferOf _ _ (by omega), if_pos hk]
  rfl

theorem digitAt_toNat (id : Ident) (p : Nat) : (digitAt id p).toNat = id.toNat / 64 ^ p % 64 := by
  rw [digitAt, lowDigit_toNat, shiftDigits_toNat]

/-- Two strings in buffers are equal when their lengths are and their characters below it. -/
theorem stringOf_eq_iff (m n : Len) (a b : Buffer) :
    stringOf m a = stringOf n b ↔
      m.toNat = n.toNat ∧ ∀ k, k < n.toNat → readByte a k = readByte b k := by
  constructor
  · intro same
    have len : m.toNat = n.toNat := by simpa [stringOf] using congrArg List.length same
    simpa [stringOf, len] using same
  · rintro ⟨len, chars⟩
    simpa [stringOf, len] using chars

/-- `ENCODE` gives a string of alphabet characters back exactly when the value has as many digits as the
string has characters, and the same ones. -/
theorem encode_gives_back_iff (value : Ident) (slen : Len) (str : Buffer)
    (chars : ∀ k, k < slen.toNat → isAlphaChar (readByte str k) = true) :
    stringOf (encodeResult value).len (encodeResult value).str = stringOf slen str ↔
      digitCount value = slen.toNat ∧ ∀ k, k < slen.toNat →
        value.toNat / 64 ^ (slen.toNat - 1 - k) % 64 = (digitOfChar (readByte str k)).toNat := by
  rw [stringOf_eq_iff, encodeResult_len_toNat]
  refine and_congr_right fun count => forall_congr' fun k => imp_congr_right fun hk => ?_
  rw [readByte_encodeResult value (count ▸ hk), count, ← digitAt_toNat, BitVec.toNat_inj]
  constructor
  · intro same
    rw [← same, digitOfChar_alpha]
  · intro same
    rw [same, alpha_digitOfChar _ (chars k hk)]

/-- The value of a canonical string is its positional value: nothing leaves the top (R104, R106). -/
theorem foldChars_toNat_of_canonical {slen : Len} {str : Buffer} (le : slen.toNat ≤ 11)
    (canonical : canonicalString slen str) :
    (foldChars str slen.toNat).toNat = positionalValue str slen.toNat := by
  obtain ⟨-, firstSmall⟩ := canonical
  by_cases eleven : slen = 11
  · have small : (digitOfChar (readByte str 0)).toNat ≤ 15 := BitVec.le_def.mp (firstSmall eleven)
    have sum := foldChars_eleven_toNat_add str
    rw [Nat.div_eq_of_lt (by omega), zero_mul, add_zero] at sum
    rw [eleven]
    exact sum
  · have : slen.toNat ≠ 11 := fun h => eleven (BitVec.eq_of_toNat_eq h)
    exact foldChars_toNat_of_le_ten str (by omega)

/-- A canonical string of `n` characters has a value of `n` digits: its first digit is not zero, or is
the only one. -/
theorem digitCount_foldChars_of_canonical {slen : Len} {str : Buffer} (ge : 1 ≤ slen.toNat)
    (le : slen.toNat ≤ 11) (canonical : canonicalString slen str) :
    digitCount (foldChars str slen.toNat) = slen.toNat := by
  have value := foldChars_toNat_of_canonical le canonical
  refine digitCount_eq _ _ ge le (value ▸ positionalValue_lt _ _) ?_
  obtain ⟨one | nonzero, -⟩ := canonical
  · exact .inl (by simp [one])
  · have first := positionalValue_div_first str (slen.toNat - 1)
    rw [Nat.sub_add_cancel ge] at first
    have : (digitOfChar (readByte str 0)).toNat ≠ 0 := fun h => nonzero (BitVec.eq_of_toNat_eq h)
    rw [value]
    refine .inr (Nat.div_pos_iff.mp ?_).2
    omega

/-- A string that spells out the digits of its value is canonical: the top digit of a value is not zero
unless it is the only one, and the eleventh holds the top four bits alone. -/
theorem canonicalString_of_first_digit {value : Ident} {slen : Len} {str : Buffer}
    (count : digitCount value = slen.toNat)
    (first : value.toNat / 64 ^ (slen.toNat - 1) % 64 = (digitOfChar (readByte str 0)).toNat) :
    canonicalString slen str := by
  obtain ⟨fits, topDigit⟩ := digitCount_spec value
  rw [count] at fits topDigit
  refine ⟨topDigit.imp (fun one => BitVec.eq_of_toNat_eq one) fun least zero => ?_,
    fun eleven => BitVec.le_def.mpr ?_⟩
  · have pos : 0 < value.toNat / 64 ^ (slen.toNat - 1) := Nat.div_pos least (by positivity)
    have lt : value.toNat / 64 ^ (slen.toNat - 1) < 64 := by
      refine Nat.div_lt_of_lt_mul ?_
      rwa [← pow_succ, Nat.sub_add_cancel (count ▸ (digitCount_bounds value).1)]
    rw [zero, Nat.mod_eq_of_lt lt] at first
    exact pos.ne' first
  · have inRange := value.isLt
    subst eleven
    calc (digitOfChar (readByte str 0)).toNat = value.toNat / 64 ^ 10 % 64 := first.symm
      _ ≤ 15 := by omega

/-- Settles O33: an accepted string is folded; a leading zero digit leaves the accumulator as it is and ten
more characters keep of the first digit the low four bits; and the strings that spell out the digits of
their value are the canonical ones. -/
theorem decodeAcceptsMoreThanCanonicalStrings :
    Obligations.DecodeAcceptsMoreThanCanonicalStrings := by
  refine ⟨fun str h1 h11 chars => ?_, fun str h1 h10 => ?_, fun a b str len ha hb same => ?_,
    fun slen str value ok => ?_⟩
  · have noneInvalid : str.any charInvalid = false := by
      simpa [charInvalid_eq_not] using chars
    exact ⟨foldString 0 str, by simp [decodeString_of_length h1 h11, noneInvalid]⟩
  · rw [decodeString_of_length (by simp) (by simp; omega), decodeString_of_length h1 (by omega),
      foldString_zero_digit, List.any_cons, charInvalid_alpha, Bool.false_or]
  · rw [decodeString_of_length (by simp) (by simp; omega),
      decodeString_of_length (by simp) (by simp; omega), foldString_first_digit len same,
      List.any_cons, List.any_cons, charInvalid_eq_not, charInvalid_eq_not, ha, hb]
  · obtain ⟨valid, chars, rfl⟩ := (decodeResult_eq_ok_iff slen str value).mp ok
    obtain ⟨ge, le⟩ := (lengthInvalid_eq_false_iff slen).mp valid
    rw [encode_gives_back_iff _ slen str chars]
    constructor
    · rintro ⟨count, digits⟩
      exact canonicalString_of_first_digit count (digits 0 ge)
    · intro canonical
      refine ⟨digitCount_foldChars_of_canonical ge le canonical, fun k hk => ?_⟩
      rw [foldChars_toNat_of_canonical le canonical, positionalValue_digit str hk]

end Sys2Proof.Machine
end

section
/-! The one error of the block, and the unit that has none: every error completion of unit `DEC` is
`raise InvalidShiny`, and unit `ENC` neither stops nor touches an outcome of unit `DEC`
(60_exceptions.md R123, R127). -/

namespace Sys2Proof.Machine

/-- The error flag is clear while a command is in progress (R26, R27). -/
theorem DecInv.d_err_eq_false_of_busy {s : State} (h : DecInv s) (busy : s.d_busy = true) :
    s.d_err = false :=
  Bool.eq_false_iff.mpr fun err => h.exclusive ⟨busy, (h.error err).1⟩

/-- Of all a turn of unit `DEC` can do, only `raise InvalidShiny` sets the error flag (R120, R123). -/
theorem decStep_eq_raiseInvalidShiny {s : State} (clear : s.d_err = false)
    (err : (decStep s).d_err = true) : ∃ cause, decStep s = s.raiseInvalidShiny cause := by
  rcases decStep_cases s with
    ⟨-, -, lenFail⟩ | ⟨-, -, charFail⟩ | ⟨-, -, fold⟩ | ⟨-, finish⟩ | ⟨-, nothing⟩
  · exact ⟨.length, lenFail⟩
  · exact ⟨.character, charFail⟩
  · simp [fold, clear] at err
  · simp [finish] at err
  · simp [nothing, clear] at err

/-- Settles O22: the invariant has the flag clear before the turn, so the turn raised the error; the ports
and the readiness are read off the state `raise InvalidShiny` leaves. -/
theorem everyErrorCompletionIsTheOneUpdate :
    Obligations.EveryErrorCompletionIsTheOneUpdate := by
  intro s t rest turn inv busy next err
  obtain rfl : decStep (s.withSchedule rest) = t := by simpa [step_dec turn] using next
  have clear : (s.withSchedule rest).d_err = false := inv.d_err_eq_false_of_busy busy
  obtain ⟨cause, raised⟩ := decStep_eq_raiseInvalidShiny clear err
  rw [raised]
  refine ⟨cause, rfl, rfl, rfl, ?_, rfl, fun cmd opcode => ?_⟩
  · cases cause <;> rfl
  · simp [cmdReady_eq, opcode]

/-- An `enc` turn without an enabled step is used up and changes nothing else (R9). -/
theorem step_enc_of_not_enabled {s : State} {rest : List Move} (turn : s.schedule = .enc :: rest)
    (disabled : s.encEnabled = false) : step s = .next (s.withSchedule rest) := by
  obtain ⟨noDigit, noFinish⟩ := Bool.or_eq_false_iff.mp disabled
  have noDigit' : (s.withSchedule rest).digitEnabled = false := noDigit
  have noFinish' : (s.withSchedule rest).encFinishEnabled = false := noFinish
  calc step s = encStep (s.withSchedule rest) := step_cons turn
    _ = .next (s.withSchedule rest) := by simp [encStep, noDigit', noFinish']

/-- Under the invariant every slot unit `ENC` forms exists, so its turn does not stop (R12, R127). -/
theorem EncInv.step_enc_answers {s : State} {rest : List Move} (h : EncInv s)
    (turn : s.schedule = .enc :: rest) : ∃ t, step s = .next t := by
  by_cases digit : s.digitEnabled = true
  · exact ⟨_, step_enc_of_digitEnabled turn digit (h.one_le_pos_of_digitEnabled digit) h.pos_le⟩
  by_cases finish : s.encFinishEnabled = true
  · exact ⟨_, step_enc_of_encFinishEnabled turn finish h.pos_le⟩
  · exact ⟨_, step_enc_of_not_enabled turn (by simp [State.encEnabled, digit, finish])⟩

/-- A turn of unit `ENC` leaves all that unit `DEC` owns alone (R52). -/
theorem encStep_sameDec {s t : State} (h : encStep s = .next t) : SameDec s t := by
  rcases encStep_cases h with ⟨-, -, -, rfl⟩ | ⟨-, -, -, rfl⟩ | ⟨-, rfl⟩ <;>
    exact ⟨rfl, rfl, rfl, rfl, rfl, rfl, rfl, rfl, rfl⟩

/-- `ENCODE` is accepted or waits, for every operand in every state (R70, R81). -/
theorem exec_encode_cases (ignored : BitVec 28) (id : Ident) (s : State) :
    exec (.encode ignored id) s = .next s ∨
      exec (.encode ignored id) s = .next (s.encAccept id) := by
  cases busy : s.e_busy with
  | true => exact .inl (by simp [exec, execEncode, busy])
  | false => exact .inr (exec_encode_of_idle ignored id busy)

/-- Settles O23: the accept writes registers of `ENC` alone; a turn of `ENC` answers a next state under
the invariant, and none of its steps writes a register of `DEC`. -/
theorem encodeNeverFails : Obligations.EncodeNeverFails := by
  refine ⟨fun ignored id s => ?_, fun s rest inv turn => ?_⟩
  · rcases exec_encode_cases ignored id s with waits | accepted
    · exact ⟨s, waits, rfl, rfl⟩
    · exact ⟨s.encAccept id, accepted, rfl, rfl⟩
  · obtain ⟨t, next⟩ := inv.step_enc_answers turn
    have same : SameDec (s.withSchedule rest) t := encStep_sameDec ((step_cons turn).symm.trans next)
    exact ⟨t, next, same.d_err.symm, same.d_cause.symm⟩

end Sys2Proof.Machine
end

section
/-! What `RESET` leaves behind: two idle units, whose turns take no step, and zero on every result port
(00_scope.md R9, 70_reset_and_hazards.md R141). -/

namespace Sys2Proof.Machine

theorem State.quiescent_iff (s : State) :
    s.quiescent = true ↔ s.e_busy = false ∧ s.d_busy = false := by
  simp [State.quiescent]

theorem encEnabled_eq_false_of_idle {s : State} (idle : s.e_busy = false) :
    s.encEnabled = false := by
  simp [State.encEnabled, State.digitEnabled, State.encFinishEnabled, idle]

/-- Every step of unit `DEC` asks for `d_busy` (R102, R103, R105). -/
theorem decStep_of_idle {s : State} (idle : s.d_busy = false) : decStep s = s := by
  simp [decStep, State.lenFailEnabled, State.charEnabled, State.decFinishEnabled, idle]

/-- A unit turn of a quiescent block is used up and changes nothing else (R9). -/
theorem step_unit_turn_of_quiescent {s : State} {m : Move} {rest : List Move}
    (turn : s.schedule = m :: rest) (unit : m.isUnitTurn = true) (quiet : s.quiescent = true) :
    step s = .next (s.withSchedule rest) := by
  obtain ⟨encIdle, decIdle⟩ := s.quiescent_iff.mp quiet
  cases m with
  | enc => exact step_enc_of_not_enabled turn (encEnabled_eq_false_of_idle encIdle)
  | dec =>
    have decIdle' : (s.withSchedule rest).d_busy = false := decIdle
    rw [step_dec turn, decStep_of_idle decIdle']
  | reset | present | withdraw | accept | waitEnc | waitDec => cases unit

/-- Any schedule of unit turns leaves a quiescent block as it is (R148). -/
theorem runSteps_unit_turns_of_quiescent {s : State} {turns : List Move}
    (units : ∀ m, m ∈ turns → m.isUnitTurn = true) (quiet : s.quiescent = true) :
    runSteps turns.length (s.withSchedule turns) = .next (s.withSchedule []) := by
  induction turns with
  | nil => rfl
  | cons m rest ih =>
    obtain ⟨unit, units⟩ := List.forall_mem_cons.mp units
    have first : step (s.withSchedule (m :: rest)) = .next (s.withSchedule rest) :=
      step_unit_turn_of_quiescent rfl unit quiet
    rw [List.length_cons, runSteps_succ_of_next first, ih units]

theorem quiescent_resetRegisters (s : State) : s.resetRegisters.quiescent = true := rfl

/-- The reset values do not depend on what the registers held (R33). -/
theorem resetRegisters_resetRegisters (s : State) :
    s.resetRegisters.resetRegisters = s.resetRegisters := rfl

/-- A reset turn is one step, after which the turns laid down behind it run on reset registers (R140). -/
theorem runSteps_reset (k : Nat) (s : State) (rest : List Move) :
    runSteps (1 + k) (s.withSchedule (.reset :: rest)) =
      runSteps k (s.resetRegisters.withSchedule rest) := by
  have reset : step (s.withSchedule (.reset :: rest)) = .next (s.resetRegisters.withSchedule rest) :=
    step_reset rfl
  rw [Nat.add_comm, runSteps_succ_of_next reset]

/-- A buffer of zeros packs to the zero field (R71). -/
theorem packChars_zeroBuffer : packChars zeroBuffer = 0 := by decide

/-- Settles O42: the reset turn leaves both units idle, so the unit turns after it take no step, and a
second reset writes the values that are there; the ports show the zero registers. -/
theorem resetAbandonsCommandsInProgress : Obligations.ResetAbandonsCommandsInProgress := by
  intro s turns units
  have abandoned : runSteps (1 + turns.length) (s.withSchedule (.reset :: turns)) =
      .next (s.resetRegisters.withSchedule []) := by
    rw [runSteps_reset, runSteps_unit_turns_of_quiescent units (quiescent_resetRegisters s)]
  have second : runSteps 2 (s.withSchedule [.reset, .reset]) =
      .next (s.resetRegisters.withSchedule []) :=
    calc runSteps (1 + 1) (s.withSchedule [.reset, .reset])
      _ = runSteps 1 (s.resetRegisters.withSchedule [.reset]) := runSteps_reset 1 s [.reset]
      _ = .next (s.resetRegisters.resetRegisters.withSchedule []) :=
        runSteps_reset 0 s.resetRegisters []
      _ = .next (s.resetRegisters.withSchedule []) := by rw [resetRegisters_resetRegisters]
  exact ⟨s.resetRegisters.withSchedule [], runSteps_reset 0 s [], abandoned, second,
    rfl, rfl, rfl, rfl, rfl, rfl, packChars_zeroBuffer, rfl⟩

end Sys2Proof.Machine
end

section
/-! Commands, words, numbers and bytes correspond: what decoding and encoding do to each other in
all three ways a command is written (30_encoding.md R60 to R64, section 1). -/

namespace Sys2Proof.Machine

theorem extractLsb'_opcode (cmd : CmdWord) :
    cmd.extractLsb' 92 1 = BitVec.ofBool (cmd.getLsbD 92) := by
  ext i hi
  obtain rfl : i = 0 := by omega
  simp

/-- A word is put together again from its opcode bit and its two fields (R61, R62). -/
theorem encodeWord_decodeWord (cmd : CmdWord) : encodeWord (decodeWord cmd) = cmd := by
  cases opcode : cmd.getLsbD 92 with
  | false =>
    have bit : 0#1 = cmd.extractLsb' 92 1 := by rw [extractLsb'_opcode, opcode]; rfl
    rw [decodeWord_of_opcode_clear opcode, encodeWord, bit,
      BitVec.extractLsb'_append_extractLsb'_eq_extractLsb' (show 92 = 64 + 28 from rfl),
      BitVec.extractLsb'_append_extractLsb'_eq_extractLsb' (show 64 = 0 + 64 from rfl),
      BitVec.extractLsb'_eq_self]
  | true =>
    have bit : 1#1 = cmd.extractLsb' 92 1 := by rw [extractLsb'_opcode, opcode]; rfl
    rw [decodeWord_of_opcode_set opcode, encodeWord, packChars_unpackChars, bit,
      BitVec.extractLsb'_append_extractLsb'_eq_extractLsb' (show 92 = 88 + 4 from rfl),
      BitVec.extractLsb'_append_extractLsb'_eq_extractLsb' (show 88 = 0 + 88 from rfl),
      BitVec.extractLsb'_eq_self]

/-- A number that fits the port is decoded as the word it is (R60). -/
theorem decodeNumber_of_lt {w : Nat} (fits : w < 2 ^ 93) :
    decodeNumber w = .ok (decodeWord (BitVec.ofNat 93 w)) :=
  if_pos fits

/-- A number wider than the port is turned away by name. -/
theorem decodeNumber_of_ge {w : Nat} (wide : 2 ^ 93 ≤ w) :
    decodeNumber w = .error .wordTooWide :=
  if_neg (Nat.not_lt.mpr wide)

theorem decodeNumber_encodeWord (i : Instr) : decodeNumber (encodeWord i).toNat = .ok i := by
  rw [decodeNumber_of_lt (encodeWord i).isLt, BitVec.ofNat_toNat, BitVec.setWidth_eq,
    decodeWord_encodeWord]

/-- The first `n` of the twelve bytes of a 96-bit number are the number without its low `12 - n`
bytes. -/
theorem numberOfBytes_first_bytes (w : BitVec 96) {n : Nat} (hn : n ≤ 12) :
    numberOfBytes ((List.range n).map fun k => w.extractLsb' (88 - 8 * k) 8) =
      w.toNat / 2 ^ (96 - 8 * n) := by
  induction n with
  | zero => exact (Nat.div_eq_of_lt w.isLt).symm
  | succ n ih =>
    have shift : 96 - 8 * n = (88 - 8 * n) + 8 := by omega
    have rest : 96 - 8 * (n + 1) = 88 - 8 * n := by omega
    simp only [numberOfBytes] at ih
    rw [numberOfBytes, List.range_succ, List.map_append, List.foldl_append, ih (by omega), shift,
      rest, pow_add, ← Nat.div_div_eq_div_mul]
    simp only [List.map_cons, List.map_nil, List.foldl_cons, List.foldl_nil,
      BitVec.extractLsb'_toNat, Nat.shiftRight_eq_div_pow]
    omega

/-- The twelve bytes of a command read as its word (R6). -/
theorem numberOfBytes_encodeBytes (i : Instr) :
    numberOfBytes (encodeBytes i) = (encodeWord i).toNat := by
  rw [encodeBytes, numberOfBytes_first_bytes _ le_rfl]
  have := (encodeWord i).isLt
  simp
  omega

/-- Settles O2: the number of a command's word fits the port and its twelve bytes read as that
number, so both come down to the word, whose fields stand where the decoder takes them. -/
theorem decodingAnEncodedCommandGivesItBack : Obligations.DecodingAnEncodedCommandGivesItBack := by
  intro i
  refine ⟨decodeWord_encodeWord i, decodeNumber_encodeWord i, ?_⟩
  rw [decodeBytes, numberOfBytes_encodeBytes, decodeNumber_encodeWord]

/-- Settles O3: both formats keep the opcode bit and every bit of both fields. -/
theorem encodingADecodedWordGivesItBack : Obligations.EncodingADecodedWordGivesItBack :=
  encodeWord_decodeWord

/-- Settles O6: a number below `2^93` is a word, which its command encodes back to. -/
theorem onlyNumbersOf93BitsAreCommands : Obligations.OnlyNumbersOf93BitsAreCommands := by
  refine fun w => ⟨fun fits => ⟨_, decodeNumber_of_lt fits, ?_⟩, decodeNumber_of_ge⟩
  rw [encodeWord_decodeWord, BitVec.toNat_ofNat, Nat.mod_eq_of_lt fits]

/-- Settles O1: the words are evaluated. -/
theorem writtenOutWordsDecode : Obligations.WrittenOutWordsDecode := by
  unfold Obligations.WrittenOutWordsDecode
  decide

end Sys2Proof.Machine
end

section
/-! The result function `decode` (41_decode.md R100): which strings give an error, and what value
the others have; and that a string loses nothing by being presented (30_encoding.md R63). -/

namespace Sys2Proof.Machine

theorem decodeResult_eq_length_iff (slen : Len) (str : Buffer) :
    decodeResult slen str = .invalidShiny .length ↔ lengthInvalid slen = true := by
  rw [decodeResult]
  cases lengthInvalid slen <;> cases anyCharInvalid str slen.toNat <;> simp

theorem decodeResult_eq_character_iff (slen : Len) (str : Buffer) :
    decodeResult slen str = .invalidShiny .character ↔
      lengthInvalid slen = false ∧ ∃ k, k < slen.toNat ∧ charInvalid (readByte str k) = true := by
  rw [← anyCharInvalid_iff, decodeResult]
  cases lengthInvalid slen <;> cases anyCharInvalid str slen.toNat <;> simp

/-- Settles O30: the three results have each its condition, and the sentinel is what makes a
character invalid. -/
theorem invalidShinyInExactlyTwoCases : Obligations.InvalidShinyInExactlyTwoCases := by
  intro slen str
  refine ⟨?_, ?_, ?_⟩
  · rw [decodeResult_eq_length_iff, lengthInvalid_iff]
  · simp only [decodeResult_eq_character_iff, lengthInvalid_eq_false_iff, charInvalid_iff_rev]
  · simp only [decodeResult_eq_ok_iff, lengthInvalid_eq_false_iff, isAlphaChar_iff_rev,
      exists_and_left, exists_eq', and_true]

/-- On a string of alphabet characters the positional value is that of the `REV` entries (R43,
R100). -/
theorem positionalValue_eq_rev_sum {str : Buffer} {n : Nat}
    (chars : ∀ k, k < n → isAlphaChar (readByte str k) = true) :
    positionalValue str n =
      ((List.range n).map fun k => (rev (readByte str k)).toNat * 64 ^ (n - 1 - k)).sum := by
  rw [positionalValue]
  congr 1
  refine List.map_congr_left fun k hk => ?_
  rw [digitOfChar_toNat _ (chars k (List.mem_range.mp hk))]

/-- Settles O31: a value is the fold of characters that all have an entry in `REV`. -/
theorem decodedValueIsPositionalModulo64Bits :
    Obligations.DecodedValueIsPositionalModulo64Bits := by
  intro slen str value ok
  obtain ⟨-, chars, rfl⟩ := (decodeResult_eq_ok_iff slen str value).mp ok
  rw [foldChars_toNat, positionalValue_eq_rev_sum chars]

theorem stringOf_length (len : Len) (buf : Buffer) : (stringOf len buf).length = len.toNat := by
  simp [stringOf]

/-- `decode` of the fields of a command is the document's `decode` of the string they hold. -/
theorem decodeResult_eq_decodeString (slen : Len) (buf : Buffer) :
    decodeResult slen buf = decodeString (stringOf slen buf) := by
  have length : lengthInvalid slen = decide (slen.toNat = 0 ∨ 11 < slen.toNat) := by
    revert slen; decide
  have chars : (stringOf slen buf).any charInvalid = anyCharInvalid buf slen.toNat := by
    simp [stringOf, anyCharInvalid, List.any_map, Function.comp_def]
  have value : (stringOf slen buf).foldl (fun value b => foldDigit value (digitOfChar b)) 0 =
      foldChars buf slen.toNat := by
    rw [stringOf, List.foldl_map, foldChars]
  rw [decodeString, stringOf_length, chars, value, decodeResult, length]
  simp only [decide_eq_true_eq]

theorem lengthField_toNat (n : Nat) : (lengthField n).toNat = min n 15 := by
  simp [lengthField]

/-- A string of at most eleven bytes is held whole by the fields of its command (R63). -/
theorem stringOf_lengthField_stringField (fill : Buffer) {str : List Byte}
    (short : str.length ≤ 11) :
    stringOf (lengthField str.length) (stringField fill str) = str := by
  have len : (lengthField str.length).toNat = str.length := by rw [lengthField_toNat]; omega
  refine List.ext_getElem (by rw [stringOf_length, len]) fun k _ hk => ?_
  have inBuffer : k < 11 := by omega
  simp [stringOf, stringField, readByte_bufferOf _ k inBuffer, hk]

/-- Settles O7: a string that fits the buffer is presented whole, and one that does not fails by its
length, saturated or not. -/
theorem presentedStringHasTheOutcomeOfTheString :
    Obligations.PresentedStringHasTheOutcomeOfTheString := by
  intro fill str
  refine ⟨_, _, rfl, lengthField_toNat _, ?_⟩
  by_cases short : str.length ≤ 11
  · rw [decodeResult_eq_decodeString, stringOf_lengthField_stringField fill short]
  · have long : 11 < (lengthField str.length).toNat := by rw [lengthField_toNat]; omega
    rw [(decodeResult_eq_length_iff _ _).mpr ((lengthInvalid_iff _).mpr (.inr long)), decodeString,
      if_pos (.inr (by omega))]

end Sys2Proof.Machine
end

section
/-! The result function `encode` (40_encode.md R80, R87, R90), and its inverse (41_decode.md
R109). -/

namespace Sys2Proof.Machine

theorem encodeResult_len_eq_iff (id : Ident) (n : Len) :
    (encodeResult id).len = n ↔ digitCount id = n.toNat := by
  rw [← encodeResult_len_toNat, BitVec.toNat_inj]

theorem digitCount_zero : digitCount 0 = 1 := by decide

/-- A number that has at most `m` digits has no greater digit count. -/
theorem digitCount_le {id : Ident} {m : Nat} (one : 1 ≤ m) (fits : id.toNat < 64 ^ m) :
    digitCount id ≤ m := by
  obtain ⟨-, single | least⟩ := digitCount_spec id
  · omega
  · have : digitCount id - 1 < m :=
      (Nat.pow_lt_pow_iff_right (by norm_num)).mp (least.trans_lt fits)
    omega

/-- Settles O25: the digit count is the `n` of the rule, and 500 is evaluated. -/
theorem encodeResultIsTheDigitsOfTheIdentifier :
    Obligations.EncodeResultIsTheDigitsOfTheIdentifier := by
  refine ⟨fun id => ?_, by decide⟩
  obtain ⟨ge, le⟩ := digitCount_bounds id
  obtain ⟨fits, least⟩ := digitCount_spec id
  refine ⟨digitCount id, ge, le, fun zero => zero ▸ digitCount_zero, fun nonzero => ⟨?_, fits⟩,
    encodeResult_len_toNat id, fun k hk => readByte_encodeResult id hk,
    fun k hk _ => readByte_encodeResult_padding id hk⟩
  refine least.elim (fun one => ?_) fun least => least
  have : id.toNat ≠ 0 := fun h => nonzero (BitVec.eq_of_toNat_eq h)
  rw [one, Nat.sub_self, pow_zero]
  omega

/-- The most significant digit is all that is left of the identifier at its place. -/
theorem topDigit_toNat (id : Ident) :
    (digitAt id (digitCount id - 1)).toNat = id.toNat / 64 ^ (digitCount id - 1) := by
  obtain ⟨fits, -⟩ := digitCount_spec id
  rw [digitAt_toNat]
  refine Nat.mod_eq_of_lt (Nat.div_lt_of_lt_mul ?_)
  rwa [← pow_succ, Nat.sub_add_cancel (digitCount_bounds id).1]

/-- Only zero has a leading zero digit (R87). -/
theorem topDigit_eq_zero_iff (id : Ident) : digitAt id (digitCount id - 1) = 0 ↔ id = 0 := by
  constructor
  · intro zero
    have small : id.toNat < 64 ^ (digitCount id - 1) := by
      rw [← Nat.div_eq_zero_iff_lt (by positivity), ← topDigit_toNat, zero]
      rfl
    obtain ⟨-, one | least⟩ := digitCount_spec id
    · rw [one, Nat.sub_self, pow_zero] at small
      exact BitVec.eq_of_toNat_eq (Nat.lt_one_iff.mp small)
    · omega
  · rintro rfl
    decide

theorem readByte_encodeResult_first (id : Ident) :
    readByte (encodeResult id).str 0 = alpha (digitAt id (digitCount id - 1)) :=
  readByte_encodeResult id (digitCount_bounds id).1

/-- The eleventh digit has the four bits `id[63:60]` alone (R87). -/
theorem digitAt_ten (id : Ident) : digitAt id 10 = (id.extractLsb 63 60).zeroExtend 6 := by
  apply BitVec.eq_of_toNat_eq
  rw [digitAt_toNat]
  have := id.isLt
  simp [BitVec.extractLsb, Nat.shiftRight_eq_div_pow]
  omega

/-- Settles O36: the digit count is the least one, its top digit is zero for zero alone, and every
character is `ALPHA` of a digit. -/
theorem encodedStringsAreShortestAndCanonical :
    Obligations.EncodedStringsAreShortestAndCanonical := by
  intro id
  obtain ⟨ge, le⟩ := digitCount_bounds id
  simp only [encodeResult_len_toNat, encodeResult_len_eq_iff, readByte_encodeResult_first]
  refine ⟨ge, le, fun m => digitCount_le, ?_, fun zero => zero ▸ digitCount_zero, fun eleven => ?_,
    fun k hk => ⟨_, readByte_encodeResult id hk⟩⟩
  · rw [← topDigit_eq_zero_iff]
    exact ⟨alpha_injective _ _, congrArg alpha⟩
  · rw [eleven]
    exact congrArg alpha (digitAt_ten id)

/-- Folding in the digit at a place undoes dropping it (R82, R104). -/
theorem foldDigit_digitAt (id : Ident) (p : Nat) :
    foldDigit (id >>> (6 * (p + 1))) (digitAt id p) = id >>> (6 * p) := by
  apply BitVec.eq_of_toNat_eq
  have inRange : id.toNat / 64 ^ p < 2 ^ 64 := (Nat.div_le_self _ _).trans_lt id.isLt
  rw [foldDigit_toNat, digitAt_toNat, shiftDigits_toNat, shiftDigits_toNat, pow_succ,
    ← Nat.div_div_eq_div_mul]
  omega

/-- The fold over the first `k` characters of an encoding has the top `k` digits of the
identifier. -/
theorem foldChars_of_encoding {id : Ident} {str : Buffer}
    (same : ∀ k, k < digitCount id → readByte str k = readByte (encodeResult id).str k) {k : Nat}
    (hk : k ≤ digitCount id) : foldChars str k = id >>> (6 * (digitCount id - k)) := by
  induction k with
  | zero => exact ((shiftDigits_eq_zero_iff id _).mpr (digitCount_spec id).1).symm
  | succ k ih =>
    have place : digitCount id - k = (digitCount id - 1 - k) + 1 := by omega
    rw [foldChars_succ, ih (by omega), same k hk, readByte_encodeResult id hk, digitOfChar_alpha,
      place, foldDigit_digitAt, Nat.sub_sub, Nat.add_comm 1 k]

theorem isAlphaChar_encodeResult (id : Ident) {k : Nat} (hk : k < digitCount id) :
    isAlphaChar (readByte (encodeResult id).str k) = true := by
  rw [readByte_encodeResult id hk, isAlphaChar_alpha]

/-- The length of an encoding is valid (R14, R120). -/
theorem lengthInvalid_encodeResult (id : Ident) : lengthInvalid (encodeResult id).len = false := by
  rw [lengthInvalid_eq_false_iff, encodeResult_len_toNat]
  exact digitCount_bounds id

/-- Settles O34: the length is valid, the characters are the alphabet's, and their fold is the
identifier with no digit dropped. -/
theorem decodeUndoesEncode : Obligations.DecodeUndoesEncode := by
  intro id str same
  rw [decodeResult_eq_ok_iff]
  refine ⟨lengthInvalid_encodeResult id, fun k hk => ?_, ?_⟩
  · rw [same k hk]
    exact isAlphaChar_encodeResult id (encodeResult_len_toNat id ▸ hk)
  · rw [encodeResult_len_toNat] at same ⊢
    rw [foldChars_of_encoding same le_rfl, Nat.sub_self]
    exact BitVec.ushiftRight_zero id

/-- The document's `decode` reads an encoded string back (R109). -/
theorem decodeString_encode (id : Ident) :
    decodeString (stringOf (encodeResult id).len (encodeResult id).str) = .ok id := by
  rw [← decodeResult_eq_decodeString]
  exact decodeUndoesEncode id _ fun _ _ => rfl

/-- Settles O37: `decode` is a left inverse of `encode` that sees the string alone. -/
theorem encodeIsInjective : Obligations.EncodeIsInjective := by
  intro x y same
  have both : DecodeResult.ok x = .ok y := by
    rw [← decodeString_encode x, same, decodeString_encode y]
  injection both

theorem getLsbD_digitAt (id : Ident) (p : Nat) {j : Nat} (hj : j < 6) :
    (digitAt id p).getLsbD j = id.getLsbD (6 * p + j) := by
  simp [digitAt, lowDigit, hj]

/-- Settles O38: the character is that of the digit at place `n - 1 - k`. -/
theorem characterCarriesItsSixBits : Obligations.CharacterCarriesItsSixBits := by
  intro id k j hk hj
  rw [encodeResult_len_toNat] at hk ⊢
  rw [readByte_encodeResult id hk, digitOfChar_alpha, getLsbD_digitAt id _ hj]

theorem digitAt_zero (id : Ident) : digitAt id 0 = lowDigit id := by
  rw [digitAt, Nat.mul_zero, BitVec.ushiftRight_zero]

theorem digitAt_dropDigit (id : Ident) (p : Nat) :
    digitAt (dropDigit id) p = digitAt id (p + 1) := by
  apply BitVec.eq_of_toNat_eq
  rw [digitAt_toNat, digitAt_toNat, dropDigit_toNat, Nat.div_div_eq_div_mul, pow_succ']

/-- An identifier that dropping a digit leaves nothing of has one digit. -/
theorem digitCount_of_dropDigit_eq_zero {id : Ident} (last : dropDigit id = 0) :
    digitCount id = 1 := by
  have small : id.toNat / 64 = 0 := by rw [← dropDigit_toNat, last]; rfl
  exact digitCount_eq id 1 le_rfl (by norm_num) (by omega) (.inl rfl)

/-- Dropping a digit leaves one digit less, if anything. -/
theorem digitCount_dropDigit {id : Ident} (more : dropDigit id ≠ 0) :
    digitCount id = digitCount (dropDigit id) + 1 := by
  have nonzero : id.toNat / 64 ≠ 0 := fun h => more (BitVec.eq_of_toNat_eq (dropDigit_toNat id ▸ h))
  obtain ⟨fits, least⟩ := digitCount_spec (dropDigit id)
  have small : digitCount (dropDigit id) ≤ 10 := by
    refine digitCount_le (by norm_num) ?_
    have := id.isLt
    rw [dropDigit_toNat]
    omega
  rw [dropDigit_toNat] at fits least
  refine digitCount_eq id _ (by omega) (by omega) ?_ (.inr ?_)
  · rw [pow_succ]
    omega
  · rw [Nat.add_sub_cancel]
    have ge := (digitCount_bounds (dropDigit id)).1
    rcases least with one | least
    · rw [one]
      omega
    · rw [← Nat.sub_add_cancel ge, pow_succ]
      omega

/-- The first formulation lists the characters of the digits, least significant first (R90). -/
theorem charsLeastFirst_eq_map (fuel : Nat) (id : Ident) (enough : digitCount id ≤ fuel) :
    charsLeastFirst fuel id = (List.range (digitCount id)).map fun p => alpha (digitAt id p) := by
  induction fuel generalizing id with
  | zero =>
    have := (digitCount_bounds id).1
    omega
  | succ fuel ih =>
    rw [charsLeastFirst]
    by_cases last : dropDigit id = 0
    · rw [if_pos last, digitCount_of_dropDigit_eq_zero last]
      simp [digitAt_zero]
    · have count := digitCount_dropDigit last
      rw [if_neg last, ih _ (by omega), count, List.range_succ_eq_map]
      simp [digitAt_zero, digitAt_dropDigit]

/-- Settles O39: character `k` of the reversed list is that of the digit at place `n - 1 - k`. -/
theorem reversingTheDigitListGivesTheSameString :
    Obligations.ReversingTheDigitListGivesTheSameString := by
  intro id
  rw [charsLeastFirst_eq_map 11 id (digitCount_bounds id).2]
  refine List.ext_getElem (by simp [stringOf_length, encodeResult_len_toNat]) fun k hk _ => ?_
  have hk : k < digitCount id := by simpa using hk
  simp [stringOf, readByte_encodeResult id hk]

end Sys2Proof.Machine
end

section
/-! The turns of the schedule one at a time: accept turns, waits, and steps with no turn laid down
(30_encoding.md R67, R70; 70_reset_and_hazards.md R149, R150). -/

namespace Sys2Proof.Machine

theorem withSchedule_self (s : State) : s.withSchedule s.schedule = s := rfl

theorem acceptable_eq_cmdReady {s : State} {cmd : CmdWord} (port : s.cmd_port = some cmd) :
    s.acceptable = cmdReady cmd s := by
  rw [State.acceptable, port]

theorem acceptable_eq_false_of_port_none {s : State} (port : s.cmd_port = none) :
    s.acceptable = false := by
  rw [State.acceptable, port]

/-- With no word on the port an accept turn does nothing. -/
theorem acceptStep_of_port_none {s : State} (port : s.cmd_port = none) :
    acceptStep s = .next s := by
  rw [acceptStep, port]

/-- A ready word is taken off the port and its command runs (R70). -/
theorem acceptStep_of_ready {s : State} {cmd : CmdWord} (port : s.cmd_port = some cmd)
    (ready : cmdReady cmd s = true) : acceptStep s = exec (decodeWord cmd) (s.withPort none) := by
  rw [acceptStep, port]
  simp [State.takeWord, acceptable_eq_cmdReady port, ready]

/-- A word that is not ready stays on the port while its command is given to the busy unit (R70). -/
theorem acceptStep_of_not_ready {s : State} {cmd : CmdWord} (port : s.cmd_port = some cmd)
    (notReady : cmdReady cmd s = false) : acceptStep s = exec (decodeWord cmd) s := by
  rw [acceptStep, port]
  simp [State.takeWord, acceptable_eq_cmdReady port, notReady]

theorem exec_encode_of_busy (ignored : BitVec 28) (id : Ident) {s : State}
    (busy : s.e_busy = true) :
    exec (.encode ignored id) s = .next s := by
  simp [exec, execEncode, busy]

theorem exec_decode_of_busy (slen : Len) (str : Buffer) {s : State} (busy : s.d_busy = true) :
    exec (.decode slen str) s = .next s := by
  simp [exec, execDecode, busy]

/-- The command of a word that is not ready changes nothing (R70). -/
theorem exec_of_not_ready {cmd : CmdWord} {s : State} (notReady : cmdReady cmd s = false) :
    exec (decodeWord cmd) s = .next s := by
  rw [cmdReady_eq] at notReady
  cases opcode : cmd.getLsbD 92 with
  | false =>
    rw [opcode] at notReady
    rw [decodeWord_of_opcode_clear opcode, exec_encode_of_busy _ _ (by simpa using notReady)]
  | true =>
    rw [opcode] at notReady
    rw [decodeWord_of_opcode_set opcode, exec_decode_of_busy _ _ (by simpa using notReady)]

/-- A presented `ENCODE` for an idle encoder is accepted, and its word taken off the port (R70,
R81). -/
theorem acceptStep_of_encode {s : State} {cmd : CmdWord} (port : s.cmd_port = some cmd)
    (opcode : cmd.getLsbD 92 = false) (idle : s.e_busy = false) :
    acceptStep s = .next ((s.withPort none).encAccept (cmd.extractLsb' 0 64)) := by
  rw [acceptStep_of_ready port (by rw [cmdReady_eq, opcode, idle]; rfl),
    decodeWord_of_opcode_clear opcode]
  exact exec_encode_of_idle _ _ idle

/-- A presented `DECODE` for an idle decoder is accepted, and its word taken off the port (R70,
R101). -/
theorem acceptStep_of_decode {s : State} {cmd : CmdWord} (port : s.cmd_port = some cmd)
    (opcode : cmd.getLsbD 92 = true) (idle : s.d_busy = false) :
    acceptStep s = .next ((s.withPort none).decAccept (cmd.extractLsb' 88 4)
      (unpackChars (cmd.extractLsb' 0 88))) := by
  rw [acceptStep_of_ready port (by rw [cmdReady_eq, opcode, idle]; rfl),
    decodeWord_of_opcode_set opcode]
  exact exec_decode_of_idle _ _ idle

/-- Settles O8: both cases of the accept turn. -/
theorem acceptTurnRunsThePresentedCommand : Obligations.AcceptTurnRunsThePresentedCommand := by
  intro s cmd rest port turn
  have accept : step s = acceptStep (s.withSchedule rest) := step_cons turn
  refine ⟨fun ready => ?_, fun notReady => ?_⟩
  · rw [accept, acceptStep_of_ready (s := s.withSchedule rest) port ready]
    rfl
  · rw [accept, acceptStep_of_not_ready (s := s.withSchedule rest) port notReady]
    rfl

/-- A number of the opcode table is a command exactly as the word with its low 93 bits. -/
theorem decodeWord_of_decodeTableWord {nbits w : Nat} {i : Instr}
    (found : decodeTableWord nbits w = some i) :
    decodeWord (BitVec.ofNat 93 (w % 2 ^ nbits)) = i := by
  rw [decodeTableWord] at found
  by_cases fits : w % 2 ^ nbits < 2 ^ 93
  · rw [decodeNumber_of_lt fits] at found
    exact Option.some.inj found
  · rw [decodeNumber_of_ge (Nat.not_lt.mp fits)] at found
    cases found

/-- Settles O9: both units are idle, so the placed word is ready. -/
theorem placedWordRunsAsTheNextStep : Obligations.PlacedWordRunsAsTheNextStep := by
  intro s nbits w i found encIdle decIdle
  obtain ⟨accepted, -⟩ := acceptTurnRunsThePresentedCommand (s.withFetchWord nbits w) _ s.schedule
    rfl rfl
  rw [accepted (cmdReady_of_idle encIdle decIdle _), decodeWord_of_decodeTableWord found]
  rfl

/-- Settles O10: a word that is not ready is a command for a busy unit, which does nothing with
it. -/
theorem commandForABusyUnitWaits : Obligations.CommandForABusyUnitWaits := by
  refine ⟨cmdReady_eq, fun ignored id s => exec_encode_of_busy ignored id,
    fun slen str s => exec_decode_of_busy slen str, fun s cmd rest port turn notReady => ?_⟩
  obtain ⟨-, waits⟩ := acceptTurnRunsThePresentedCommand s cmd rest port turn
  rw [waits notReady]
  exact exec_of_not_ready notReady

/-- Settles O11: the two turns, written out. -/
theorem presentingAWordHasNoEffectByItself : Obligations.PresentingAWordHasNoEffectByItself :=
  fun _ _ => ⟨fun _ turn => step_cons turn, fun turn => step_cons turn⟩

/-- A turn of unit `ENC` leaves the port and the schedule alone. -/
theorem encStep_host {s t : State} (h : encStep s = .next t) :
    t.schedule = s.schedule ∧ t.cmd_port = s.cmd_port := by
  rcases encStep_cases h with ⟨-, -, -, rfl⟩ | ⟨-, -, -, rfl⟩ | ⟨-, rfl⟩ <;> exact ⟨rfl, rfl⟩

/-- A turn of unit `DEC` leaves the port and the schedule alone. -/
theorem decStep_host (s : State) :
    (decStep s).schedule = s.schedule ∧ (decStep s).cmd_port = s.cmd_port := by
  rcases decStep_cases s with ⟨-, -, h⟩ | ⟨-, -, h⟩ | ⟨-, -, h⟩ | ⟨-, h⟩ | ⟨-, h⟩ <;> simp [h]

theorem unitTurn_of_encEnabled {s : State} (enabled : s.encEnabled = true) :
    unitTurn s = encStep s :=
  if_pos enabled

theorem unitTurn_of_not_encEnabled {s : State} (disabled : s.encEnabled = false) :
    unitTurn s = .next (decStep s) := by
  rw [unitTurn, disabled]
  rfl

/-- A turn left to the units leaves the port and the schedule alone. -/
theorem unitTurn_host {s t : State} (h : unitTurn s = .next t) :
    t.schedule = s.schedule ∧ t.cmd_port = s.cmd_port := by
  cases enabled : s.encEnabled with
  | true => exact encStep_host (unitTurn_of_encEnabled enabled ▸ h)
  | false =>
    rw [unitTurn_of_not_encEnabled enabled] at h
    cases h
    exact decStep_host s

theorem waitTurn_of_ready {ready : Bool} (rest : List Move) (s : State) (isOver : ready = true) :
    waitTurn ready rest s = .next (s.withSchedule rest) :=
  if_pos isOver

theorem waitTurn_of_not_ready {ready : Bool} (rest : List Move) (s : State)
    (waits : ready = false) :
    waitTurn ready rest s = unitTurn s := by
  rw [waitTurn, waits]
  rfl

/-- A wait whose flag is not set is a step of the units. -/
theorem step_waitEnc_of_not_done {s : State} {rest : List Move}
    (turn : s.schedule = .waitEnc :: rest)
    (notDone : s.e_done = false) : step s = unitTurn s :=
  (step_cons turn).trans (waitTurn_of_not_ready rest s notDone)

theorem step_waitDec_of_not_done {s : State} {rest : List Move}
    (turn : s.schedule = .waitDec :: rest)
    (notDone : s.d_done = false) : step s = unitTurn s :=
  (step_cons turn).trans (waitTurn_of_not_ready rest s notDone)

/-- Settles O12: a wait is used up or is a step of the units, which leave schedule and port
alone. -/
theorem waitEndsWhenTheFlagIsSet : Obligations.WaitEndsWhenTheFlagIsSet := by
  refine fun s rest => ⟨fun turn done => ?_, fun turn done => ?_, fun t turn notDone next => ?_,
    fun t turn notDone next => ?_⟩
  · exact (step_cons turn).trans (waitTurn_of_ready rest s done)
  · exact (step_cons turn).trans (waitTurn_of_ready rest s done)
  · exact unitTurn_host (step_waitEnc_of_not_done turn notDone ▸ next)
  · exact unitTurn_host (step_waitDec_of_not_done turn notDone ▸ next)

/-- With no turn laid down an acceptable word is accepted first. -/
theorem step_free_of_acceptable {s : State} (free : s.schedule = [])
    (acceptable : s.acceptable = true) : step s = acceptStep s :=
  (advance_nil s free).trans (if_pos acceptable)

/-- With no turn laid down and nothing to accept the units go on. -/
theorem step_free_of_not_acceptable {s : State} (free : s.schedule = [])
    (notAcceptable : s.acceptable = false) : step s = unitTurn s := by
  rw [step, advance_nil s free, freeTurn, notAcceptable]
  rfl

/-- Unit `DEC` without an enabled step does nothing on its turn (R9). -/
theorem decStep_of_not_enabled {s : State} (disabled : s.decEnabled = false) : decStep s = s := by
  simp only [State.decEnabled, Bool.or_eq_false_iff] at disabled
  obtain ⟨⟨noLenFail, noChar⟩, noFinish⟩ := disabled
  simp [decStep, noLenFail, noChar, noFinish]

/-- Settles O13: the three choices of a free turn in their order; a unit's turn laid down before the
empty schedule leaves the empty schedule. -/
theorem freeRunningOrder : Obligations.FreeRunningOrder := by
  intro s free
  have emptied : ∀ m, ({ s with schedule := [m] } : State).withSchedule [] = s := fun m => by
    rw [← free]
    rfl
  refine ⟨fun cmd port ready => ?_, fun notAcceptable enabled => ?_,
    fun notAcceptable disabled => ?_, fun notAcceptable disabled decDisabled => ?_⟩
  · rw [step_free_of_acceptable free (by rw [acceptable_eq_cmdReady port, ready]),
      acceptStep_of_ready port ready]
    rfl
  · rw [step_free_of_not_acceptable free notAcceptable, unitTurn_of_encEnabled enabled,
      step_cons (rest := []) rfl]
    exact congrArg encStep (emptied .enc).symm
  · rw [step_free_of_not_acceptable free notAcceptable, unitTurn_of_not_encEnabled disabled,
      step_cons (rest := []) rfl]
    exact congrArg (fun t => Host.Outcome.next (decStep t)) (emptied .dec).symm
  · rw [step_free_of_not_acceptable free notAcceptable, unitTurn_of_not_encEnabled disabled,
      decStep_of_not_enabled decDisabled]

/-- `E-DIGIT` stops where its slot does not exist. -/
theorem encDigit_of_no_slot {s : State} (outside : s.e_pos.toNat = 0 ∨ 12 ≤ s.e_pos.toNat) :
    encDigit s = .fault .bufferIndexOutOfRange := by
  refine if_neg ?_
  simp only [BitVec.le_def]
  have one : (1 : Len).toNat = 1 := rfl
  have eleven : (11 : Len).toNat = 11 := rfl
  omega

/-- `E-FINISH` stops where its slots do not exist. -/
theorem encFinish_of_no_slot {s : State} (outside : 12 ≤ s.e_pos.toNat) :
    encFinish s = .fault .bufferIndexOutOfRange := by
  refine if_neg ?_
  rw [BitVec.le_def]
  have eleven : (11 : Len).toNat = 11 := rfl
  omega

theorem encStep_of_digitEnabled {s : State} (enabled : s.digitEnabled = true) :
    encStep s = encDigit s :=
  if_pos enabled

theorem encStep_of_encFinishEnabled {s : State} (enabled : s.encFinishEnabled = true) :
    encStep s = encFinish s := by
  simp [encStep, digitEnabled_eq_false_of_encFinishEnabled enabled, enabled]

/-- Settles O18: with digits left the turn is `E-DIGIT`, else `E-FINISH`, and neither finds its
slot. -/
theorem pointerOutsideTheBufferStops : Obligations.PointerOutsideTheBufferStops := by
  intro s rest turn busy outside
  have enc : step s = encStep (s.withSchedule rest) := step_cons turn
  by_cases digitsLeft : s.e_id = 0
  · have beyond : 12 ≤ s.e_pos.toNat := outside.resolve_right fun h => h.2 digitsLeft
    have pos_ne : s.e_pos ≠ 11 := fun h => by simp [h] at beyond
    have enabled : (s.withSchedule rest).encFinishEnabled = true :=
      (encFinishEnabled_iff _).mpr ⟨busy, digitsLeft, pos_ne⟩
    rw [enc, encStep_of_encFinishEnabled enabled,
      encFinish_of_no_slot (s := s.withSchedule rest) beyond]
  · have noSlot : s.e_pos.toNat = 0 ∨ 12 ≤ s.e_pos.toNat :=
      outside.elim .inr fun h => .inl (by rw [h.1]; rfl)
    have enabled : (s.withSchedule rest).digitEnabled = true :=
      (digitEnabled_iff _).mpr ⟨busy, .inl digitsLeft⟩
    rw [enc, encStep_of_digitEnabled enabled, encDigit_of_no_slot (s := s.withSchedule rest) noSlot]

/-- Settles O52: the accept of either unit writes every register of that unit and none of the
other. -/
theorem acceptedCommandForgetsEarlierOnes : Obligations.AcceptedCommandForgetsEarlierOnes := by
  refine ⟨fun ignored id r s hr hs => ?_, fun slen str r s hr hs => ?_⟩
  · exact ⟨_, _, exec_encode_of_idle ignored id hr, exec_encode_of_idle ignored id hs,
      ⟨rfl, rfl, rfl, rfl, rfl, rfl, rfl⟩, ⟨rfl, rfl, rfl, rfl, rfl, rfl, rfl, rfl, rfl⟩⟩
  · exact ⟨_, _, exec_decode_of_idle slen str hr, exec_decode_of_idle slen str hs,
      ⟨rfl, rfl, rfl, rfl, rfl, rfl, rfl, rfl, rfl⟩, ⟨rfl, rfl, rfl, rfl, rfl, rfl, rfl⟩⟩

/-- Settles O57: both tables are evaluated at every index and every byte. -/
theorem tablesHoldTheCanonicalAlphabet : Obligations.TablesHoldTheCanonicalAlphabet := by
  unfold Obligations.TablesHoldTheCanonicalAlphabet
  refine ⟨?_, ?_⟩
  · decide
  · set_option maxRecDepth 4000 in decide

end Sys2Proof.Machine
end

section
/-! The frames of the unit turns: what a turn of one unit does is unchanged by anything that happens
outside that unit (20_memory.md R52). -/

namespace Sys2Proof.Machine

/-- One thing after another, stopping at the first stop. -/
def andThen (o : Outcome) (f : State → Outcome) : Outcome :=
  match o with
  | .next t => f t
  | .fault r => .fault r
  | .refused r => .refused r

@[simp] theorem andThen_next (t : State) (f : State → Outcome) : andThen (.next t) f = f t := rfl
@[simp] theorem andThen_fault (r : Fault) (f : State → Outcome) :
    andThen (.fault r) f = .fault r := rfl
@[simp] theorem andThen_refused (r : Refusal) (f : State → Outcome) :
    andThen (.refused r) f = .refused r := rfl

theorem andThen_assoc (o : Outcome) (f g : State → Outcome) :
    andThen (andThen o f) g = andThen o fun t => andThen (f t) g := by
  cases o <;> rfl

/-- An outcome whose next state, if there is one, is changed by `f`. -/
def mapNext (f : State → State) (o : Outcome) : Outcome := andThen o fun t => .next (f t)

@[simp] theorem mapNext_next (f : State → State) (t : State) : mapNext f (.next t) = .next (f t) :=
  rfl

@[simp] theorem mapNext_fault (f : State → State) (r : Fault) : mapNext f (.fault r) = .fault r :=
  rfl

@[simp] theorem mapNext_refused (f : State → State) (r : Refusal) :
    mapNext f (.refused r) = .refused r := rfl

theorem SameEnc.refl (s : State) : SameEnc s s := ⟨rfl, rfl, rfl, rfl, rfl, rfl, rfl⟩

theorem SameDec.refl (s : State) : SameDec s s := ⟨rfl, rfl, rfl, rfl, rfl, rfl, rfl, rfl, rfl⟩

theorem SameEnc.symm {s t : State} (h : SameEnc s t) : SameEnc t s :=
  ⟨h.e_busy.symm, h.e_done.symm, h.e_id.symm, h.e_pos.symm, h.e_buf.symm, h.e_len.symm,
    h.e_str.symm⟩

theorem SameEnc.trans {r s t : State} (h : SameEnc r s) (h' : SameEnc s t) : SameEnc r t :=
  ⟨h.e_busy.trans h'.e_busy, h.e_done.trans h'.e_done, h.e_id.trans h'.e_id,
    h.e_pos.trans h'.e_pos, h.e_buf.trans h'.e_buf, h.e_len.trans h'.e_len, h.e_str.trans h'.e_str⟩

theorem SameDec.symm {s t : State} (h : SameDec s t) : SameDec t s :=
  ⟨h.d_busy.symm, h.d_done.symm, h.d_err.symm, h.d_cause.symm, h.d_len.symm, h.d_in.symm,
    h.d_pos.symm, h.d_acc.symm, h.d_val.symm⟩

theorem SameDec.trans {r s t : State} (h : SameDec r s) (h' : SameDec s t) : SameDec r t :=
  ⟨h.d_busy.trans h'.d_busy, h.d_done.trans h'.d_done, h.d_err.trans h'.d_err,
    h.d_cause.trans h'.d_cause, h.d_len.trans h'.d_len, h.d_in.trans h'.d_in,
    h.d_pos.trans h'.d_pos, h.d_acc.trans h'.d_acc, h.d_val.trans h'.d_val⟩

theorem sameEnc_withHost (port : Option CmdWord) (turns : List Move) (s : State) :
    SameEnc s (s.withHost port turns) := ⟨rfl, rfl, rfl, rfl, rfl, rfl, rfl⟩

theorem sameDec_withHost (port : Option CmdWord) (turns : List Move) (s : State) :
    SameDec s (s.withHost port turns) := ⟨rfl, rfl, rfl, rfl, rfl, rfl, rfl, rfl, rfl⟩

theorem sameEnc_withSchedule (turns : List Move) (s : State) : SameEnc s (s.withSchedule turns) :=
  sameEnc_withHost s.cmd_port turns s

theorem sameDec_withSchedule (turns : List Move) (s : State) : SameDec s (s.withSchedule turns) :=
  sameDec_withHost s.cmd_port turns s

theorem SameEnc.digitEnabled_eq {s t : State} (h : SameEnc s t) :
    t.digitEnabled = s.digitEnabled := by
  rw [State.digitEnabled, State.digitEnabled, h.e_busy, h.e_id, h.e_pos]

theorem SameEnc.encFinishEnabled_eq {s t : State} (h : SameEnc s t) :
    t.encFinishEnabled = s.encFinishEnabled := by
  rw [State.encFinishEnabled, State.encFinishEnabled, h.e_busy, h.e_id, h.e_pos]

/-- A change outside unit `ENC` that the writes of `E-DIGIT` and `E-FINISH` do not meet can be made
before or after a turn of the unit. -/
theorem encStep_map (f : State → State) (s : State) (same : SameEnc s (f s))
    (digit : (f s).putDigit = f s.putDigit) (finish : (f s).publishString = f s.publishString) :
    encStep (f s) = mapNext f (encStep s) := by
  rw [encStep, encStep, encDigit, encDigit, encFinish, encFinish, same.digitEnabled_eq,
    same.encFinishEnabled_eq, ← same.e_pos, digit, finish]
  split_ifs <;> rfl

/-- The state `s` with all that unit `ENC` owns taken from `r` (R10, R52). -/
def State.withEncOf (s r : State) : State :=
  { s with
    e_busy := r.e_busy
    e_done := r.e_done
    e_id := r.e_id
    e_pos := r.e_pos
    e_buf := r.e_buf
    e_len := r.e_len
    e_str := r.e_str }

theorem sameEnc_withEncOf (s r : State) : SameEnc r (s.withEncOf r) :=
  ⟨rfl, rfl, rfl, rfl, rfl, rfl, rfl⟩

theorem withEncOf_of_sameEnc {r s : State} (h : SameEnc r s) : s.withEncOf r = s := by
  obtain ⟨h1, h2, h3, h4, h5, h6, h7⟩ := h
  simp only [State.withEncOf, h1, h2, h3, h4, h5, h6, h7]

/-- A turn of unit `ENC` does the same to the unit's registers wherever they stand. -/
theorem encStep_withEncOf (s r : State) :
    encStep (s.withEncOf r) = mapNext s.withEncOf (encStep r) :=
  encStep_map s.withEncOf r (sameEnc_withEncOf s r) rfl rfl

/-- Two states with the same registers of `ENC` have turns of `ENC` that leave the same ones. -/
theorem encStep_of_sameEnc {r s t : State} (h : SameEnc r s) (next : encStep r = .next t) :
    ∃ u, encStep s = .next u ∧ SameEnc t u := by
  refine ⟨s.withEncOf t, ?_, sameEnc_withEncOf s t⟩
  rw [← withEncOf_of_sameEnc h, encStep_withEncOf, next, withEncOf_of_sameEnc h]
  rfl

/-- Settles O50: the writes of the two steps of `ENC` are in `ENC`, and so is all they read. -/
theorem encoderTurnsTouchOnlyTheEncoder : Obligations.EncoderTurnsTouchOnlyTheEncoder := by
  refine ⟨fun s t rest turn next => ?_, fun r s t x y same turnR turnS next => ?_⟩
  · have enc : encStep (s.withSchedule rest) = .next t := (step_cons turn).symm.trans next
    obtain ⟨turns, port⟩ := encStep_host enc
    exact ⟨(sameDec_withSchedule rest s).trans (encStep_sameDec enc), port, turns⟩
  · have enc : encStep (r.withSchedule x) = .next t := (step_cons turnR).symm.trans next
    have same' : SameEnc (r.withSchedule x) (s.withSchedule y) :=
      (sameEnc_withSchedule x r).symm.trans (same.trans (sameEnc_withSchedule y s))
    obtain ⟨u, next', left⟩ := encStep_of_sameEnc same' enc
    exact ⟨u, (step_cons turnS).trans next', left⟩

theorem SameDec.lenFailEnabled_eq {s t : State} (h : SameDec s t) :
    t.lenFailEnabled = s.lenFailEnabled := by
  rw [State.lenFailEnabled, State.lenFailEnabled, h.d_busy, h.d_len]

theorem SameDec.charEnabled_eq {s t : State} (h : SameDec s t) : t.charEnabled = s.charEnabled := by
  rw [State.charEnabled, State.charEnabled, h.d_busy, h.d_len, h.d_pos]

theorem SameDec.decFinishEnabled_eq {s t : State} (h : SameDec s t) :
    t.decFinishEnabled = s.decFinishEnabled := by
  rw [State.decFinishEnabled, State.decFinishEnabled, h.d_busy, h.d_len, h.d_pos]

theorem SameDec.nextChar_eq {s t : State} (h : SameDec s t) : t.nextChar = s.nextChar := by
  rw [State.nextChar, State.nextChar, h.d_in, h.d_pos]

/-- A change outside unit `DEC` that the writes of its steps do not meet can be made before or after
a turn of the unit. -/
theorem decStep_map (f : State → State) (s : State) (same : SameDec s (f s))
    (fail : ∀ cause, (f s).raiseInvalidShiny cause = f (s.raiseInvalidShiny cause))
    (fold : (f s).foldChar = f s.foldChar) (finish : (f s).publishValue = f s.publishValue) :
    decStep (f s) = f (decStep s) := by
  rw [decStep, decStep, decChar, decChar, same.lenFailEnabled_eq, same.charEnabled_eq,
    same.decFinishEnabled_eq, same.nextChar_eq, fail, fail, fold, finish]
  split_ifs <;> rfl

/-- A turn of unit `DEC` leaves all that unit `ENC` owns alone (R52). -/
theorem decStep_sameEnc (s : State) : SameEnc s (decStep s) := by
  rcases decStep_cases s with ⟨-, -, h⟩ | ⟨-, -, h⟩ | ⟨-, -, h⟩ | ⟨-, h⟩ | ⟨-, h⟩ <;> rw [h] <;>
    exact ⟨rfl, rfl, rfl, rfl, rfl, rfl, rfl⟩

/-- The operands of a `DECODE` are held while it runs (R20, R21). -/
theorem decStep_operands (s : State) :
    (decStep s).d_len = s.d_len ∧ (decStep s).d_in = s.d_in := by
  rcases decStep_cases s with ⟨-, -, h⟩ | ⟨-, -, h⟩ | ⟨-, -, h⟩ | ⟨-, h⟩ | ⟨-, h⟩ <;> simp [h]

/-- The state `s` with all that unit `DEC` owns taken from `r` (R10, R52). -/
def State.withDecOf (s r : State) : State :=
  { s with
    d_busy := r.d_busy
    d_done := r.d_done
    d_err := r.d_err
    d_cause := r.d_cause
    d_len := r.d_len
    d_in := r.d_in
    d_pos := r.d_pos
    d_acc := r.d_acc
    d_val := r.d_val }

theorem sameDec_withDecOf (s r : State) : SameDec r (s.withDecOf r) :=
  ⟨rfl, rfl, rfl, rfl, rfl, rfl, rfl, rfl, rfl⟩

theorem withDecOf_of_sameDec {r s : State} (h : SameDec r s) : s.withDecOf r = s := by
  obtain ⟨h1, h2, h3, h4, h5, h6, h7, h8, h9⟩ := h
  simp only [State.withDecOf, h1, h2, h3, h4, h5, h6, h7, h8, h9]

/-- A turn of unit `DEC` does the same to the unit's registers wherever they stand. -/
theorem decStep_withDecOf (s r : State) : decStep (s.withDecOf r) = s.withDecOf (decStep r) :=
  decStep_map s.withDecOf r (sameDec_withDecOf s r) (fun _ => rfl) rfl rfl

/-- Two states with the same registers of `DEC` have turns of `DEC` that leave the same ones. -/
theorem decStep_of_sameDec {r s : State} (h : SameDec r s) : SameDec (decStep r) (decStep s) := by
  rw [← withDecOf_of_sameDec h, decStep_withDecOf]
  exact sameDec_withDecOf s (decStep r)

/-- Settles O51: a turn of `DEC` has no stop, and the writes and reads of its steps are in `DEC`. -/
theorem decoderTurnsTouchOnlyTheDecoder : Obligations.DecoderTurnsTouchOnlyTheDecoder := by
  refine ⟨fun s rest turn => ?_, fun r s t u x y same turnR turnS nextR nextS => ?_⟩
  · obtain ⟨turns, port⟩ := decStep_host (s.withSchedule rest)
    have same := decStep_sameEnc (s.withSchedule rest)
    exact ⟨_, step_dec turn, (sameEnc_withSchedule rest s).trans same, port, turns⟩
  · obtain rfl : decStep (r.withSchedule x) = t := by simpa [step_dec turnR] using nextR
    obtain rfl : decStep (s.withSchedule y) = u := by simpa [step_dec turnS] using nextS
    have same' : SameDec (r.withSchedule x) (s.withSchedule y) :=
      (sameDec_withSchedule x r).symm.trans (same.trans (sameDec_withSchedule y s))
    exact decStep_of_sameDec same'

/-- A turn of `DEC` and the writes of `E-DIGIT` can be exchanged. -/
theorem decStep_putDigit (s : State) : decStep s.putDigit = (decStep s).putDigit :=
  decStep_map State.putDigit s ⟨rfl, rfl, rfl, rfl, rfl, rfl, rfl, rfl, rfl⟩ (fun _ => rfl) rfl rfl

/-- A turn of `DEC` and the writes of `E-FINISH` can be exchanged. -/
theorem decStep_publishString (s : State) : decStep s.publishString = (decStep s).publishString :=
  decStep_map State.publishString s ⟨rfl, rfl, rfl, rfl, rfl, rfl, rfl, rfl, rfl⟩ (fun _ => rfl) rfl
    rfl

/-- The turns of the two units can be exchanged (R52). -/
theorem encStep_decStep (s : State) : encStep (decStep s) = mapNext decStep (encStep s) :=
  encStep_map decStep s (decStep_sameEnc s) (decStep_putDigit s).symm (decStep_publishString s).symm

theorem encStep_withSchedule (turns : List Move) (s : State) :
    encStep (s.withSchedule turns) = mapNext (State.withSchedule turns) (encStep s) :=
  encStep_map (State.withSchedule turns) s (sameEnc_withSchedule turns s) rfl rfl

theorem decStep_withSchedule (turns : List Move) (s : State) :
    decStep (s.withSchedule turns) = (decStep s).withSchedule turns :=
  decStep_map (State.withSchedule turns) s (sameDec_withSchedule turns s) (fun _ => rfl) rfl rfl

end Sys2Proof.Machine
end

section
/-! The two turns of a clock edge (30_encoding.md R72). -/

namespace Sys2Proof.Machine

theorem twoTurns_eq_andThen (first second : Move) (s : State) :
    twoTurns first second s =
      andThen (takeTurn first s.schedule s) fun t => takeTurn second t.schedule t := rfl

/-- A presented `ENCODE` that `ENC` can accept is accepted, whatever `DEC` does. -/
theorem acceptStep_of_acceptsEncode {s : State} (accepts : s.acceptsEncode = true) :
    ∃ id, acceptStep s = .next ((s.withPort none).encAccept id) ∧
      acceptStep (decStep s) = .next (((decStep s).withPort none).encAccept id) := by
  unfold State.acceptsEncode at accepts
  cases port : s.cmd_port with
  | none => simp [port] at accepts
  | some cmd =>
    simp only [port, opcodeBit, Bool.and_eq_true, Bool.not_eq_true'] at accepts
    obtain ⟨opcode, idle⟩ := accepts
    exact ⟨_, acceptStep_of_encode port opcode idle, acceptStep_of_encode
      ((decStep_host s).2.trans port) opcode ((decStep_sameEnc s).e_busy.symm.trans idle)⟩

/-- A presented `DECODE` that `DEC` can accept is accepted, whatever `ENC` does. -/
theorem acceptStep_of_acceptsDecode {s : State} (accepts : s.acceptsDecode = true) :
    ∃ slen str, acceptStep s = .next ((s.withPort none).decAccept slen str) ∧
      ∀ t, encStep s = .next t → acceptStep t = .next ((t.withPort none).decAccept slen str) := by
  unfold State.acceptsDecode at accepts
  cases port : s.cmd_port with
  | none => simp [port] at accepts
  | some cmd =>
    simp only [port, opcodeBit, Bool.and_eq_true, Bool.not_eq_true'] at accepts
    obtain ⟨opcode, idle⟩ := accepts
    exact ⟨_, _, acceptStep_of_decode port opcode idle, fun t next => acceptStep_of_decode
      ((encStep_host next).2.trans port) opcode ((encStep_sameDec next).d_busy.symm.trans idle)⟩

/-- One presented word is not an `ENCODE` and a `DECODE`. -/
theorem acceptsDecode_eq_false {s : State} (accepts : s.acceptsEncode = true) :
    s.acceptsDecode = false := by
  unfold State.acceptsEncode at accepts
  unfold State.acceptsDecode
  cases port : s.cmd_port with
  | none => rfl
  | some cmd =>
    simp only [port, Bool.and_eq_true, Bool.not_eq_true'] at accepts
    simp [accepts.1]

/-- The two turns of an edge can be exchanged: the accept of a unit's command writes registers of
that unit and the port, which the other unit neither reads nor writes (R72). -/
theorem twoTurns_comm (s : State) :
    twoTurns s.encEdgeTurn s.decEdgeTurn s = twoTurns s.decEdgeTurn s.encEdgeTurn s := by
  rw [twoTurns_eq_andThen, twoTurns_eq_andThen, State.encEdgeTurn, State.decEdgeTurn]
  cases acceptsEnc : s.acceptsEncode with
  | true =>
    obtain ⟨id, first, second⟩ := acceptStep_of_acceptsEncode acceptsEnc
    rw [acceptsDecode_eq_false acceptsEnc]
    have accept : decStep ((s.withPort none).encAccept id) =
        ((decStep s).withPort none).encAccept id :=
      decStep_map (fun t => (t.withPort none).encAccept id) s
        ⟨rfl, rfl, rfl, rfl, rfl, rfl, rfl, rfl, rfl⟩ (fun _ => rfl) rfl rfl
    simp only [if_true, Bool.false_eq_true, if_false, takeTurn, withSchedule_self, first, second,
      andThen_next, accept]
  | false =>
    cases acceptsDec : s.acceptsDecode with
    | true =>
      obtain ⟨slen, str, first, second⟩ := acceptStep_of_acceptsDecode acceptsDec
      have accept : encStep ((s.withPort none).decAccept slen str) =
          mapNext (fun t => (t.withPort none).decAccept slen str) (encStep s) :=
        encStep_map (fun t => (t.withPort none).decAccept slen str) s
          ⟨rfl, rfl, rfl, rfl, rfl, rfl, rfl⟩ rfl rfl
      simp only [if_true, Bool.false_eq_true, if_false, takeTurn, withSchedule_self, first,
        andThen_next, accept]
      cases next : encStep s with
      | next t => simp [second t next]
      | fault r => rfl
      | refused r => rfl
    | false =>
      simp only [Bool.false_eq_true, if_false, takeTurn, withSchedule_self, andThen_next,
        encStep_decStep]
      rfl

/-- Settles O56: the reset turn ignores the schedule it stands in, and the two turns can be
exchanged. -/
theorem clockEdgeMovesBothUnits : Obligations.ClockEdgeMovesBothUnits := by
  intro s
  exact ⟨rfl, rfl, twoTurns_comm s⟩

end Sys2Proof.Machine
end

section
/-! The invariants of the two units: every step keeps them, and under them no turn stops
(10_state.md R12 to R17, R20 to R27; 70_reset_and_hazards.md R148). -/

namespace Sys2Proof.Machine

/-- After `RESET` both units are blank. -/
theorem encInv_reset : EncInv State.reset where
  pos_le := by decide
  exclusive := by decide
  working := fun busy => absurd busy (by decide)
  result := fun done => absurd done (by decide)
  blank := fun _ => ⟨rfl, rfl⟩

theorem decInv_reset : DecInv State.reset := by
  constructor <;> decide

/-- Settles O43, unit by unit. -/
theorem resetStateMeetsTheInvariant : Obligations.ResetStateMeetsTheInvariant :=
  ⟨encInv_reset, decInv_reset⟩

theorem inv_resetRegisters (s : State) : Inv s.resetRegisters :=
  ⟨encInv_reset.of_sameEnc ⟨rfl, rfl, rfl, rfl, rfl, rfl, rfl⟩,
    decInv_reset.of_sameDec ⟨rfl, rfl, rfl, rfl, rfl, rfl, rfl, rfl, rfl⟩⟩

/-- `E-DIGIT` goes on with the command: the new character is that of the lowest digit left, and
where it is not the first one the digit was no leading zero (R17, R82). -/
theorem EncWorking.putDigit {id0 : Ident} {s : State} (h : EncWorking id0 s)
    (enabled : s.digitEnabled = true) (pos_ge : 1 ≤ s.e_pos.toNat) (pos_le : s.e_pos.toNat ≤ 11) :
    EncWorking id0 s.putDigit := by
  have pos : s.putDigit.e_pos.toNat = s.e_pos.toNat - 1 := pos_sub_one_toNat pos_ge
  have place : 11 - (s.e_pos.toNat - 1) = 11 - s.e_pos.toNat + 1 := by omega
  constructor
  · rw [pos, State.putDigit_e_id, h.rest, dropDigit_shift, place]
  · intro k filled inBuffer
    rw [pos] at filled
    by_cases new : k = s.e_pos.toNat - 1
    · rw [new, readByte_putDigit_self pos_ge pos_le, h.rest, digitAt,
        show 10 - (s.e_pos.toNat - 1) = 11 - s.e_pos.toNat by omega]
    · rw [readByte_putDigit_ne pos_ge new, h.filled k (by omega) inBuffer]
  · intro k clear
    rw [pos] at clear
    rw [readByte_putDigit_ne pos_ge (by omega), h.clear k (by omega)]
  · intro second
    rw [pos] at second ⊢
    have notEmpty : s.e_pos ≠ 11 := fun h => by simp [h] at second
    have left : s.e_id ≠ 0 := ((digitEnabled_iff s).mp enabled).2.resolve_right notEmpty
    rwa [h.rest, show 11 - s.e_pos.toNat = 10 - (s.e_pos.toNat - 1) by omega] at left

/-- When no digit is left, the digits stored are all the digits (R84). -/
theorem EncWorking.digitCount_eq {id0 : Ident} {s : State} (h : EncWorking id0 s)
    (enabled : s.encFinishEnabled = true) (pos_le : s.e_pos.toNat ≤ 11) :
    digitCount id0 = 11 - s.e_pos.toNat := by
  obtain ⟨-, noDigits, pos_ne⟩ := (encFinishEnabled_iff s).mp enabled
  have pos_ne' : s.e_pos.toNat ≠ 11 := fun h => pos_ne (BitVec.eq_of_toNat_eq h)
  refine Machine.digitCount_eq id0 _ (by omega) (by omega) ?_ ?_
  · rw [← shiftDigits_eq_zero_iff, ← h.rest, noDigits]
  · by_cases one : s.e_pos.toNat = 10
    · exact .inl (by omega)
    · have := mt (shiftDigits_eq_zero_iff id0 _).mpr (h.minimal (by omega))
      exact .inr (by rw [show 11 - s.e_pos.toNat - 1 = 10 - s.e_pos.toNat by omega]; omega)

/-- `E-FINISH` publishes the result of the command (R83, R86). -/
theorem EncWorking.publishString {id0 : Ident} {s : State} (h : EncWorking id0 s)
    (enabled : s.encFinishEnabled = true) (pos_le : s.e_pos.toNat ≤ 11) :
    encodeResult id0 = ⟨s.publishString.e_len, s.publishString.e_str⟩ := by
  have count := h.digitCount_eq enabled pos_le
  have len : (encodeResult id0).len = s.publishString.e_len := by
    rw [encodeResult_len_eq_iff, count, State.publishString_e_len, eleven_sub_pos_toNat pos_le]
  have str : (encodeResult id0).str = s.publishString.e_str := by
    refine buffer_ext _ _ fun k inBuffer => ?_
    rw [State.publishString_e_str]
    by_cases used : k < 11 - s.e_pos.toNat
    · rw [readByte_encodeResult id0 (count ▸ used), readByte_usedSuffix _ _ _ used,
        h.filled _ (by omega) (by omega), count,
        show 11 - s.e_pos.toNat - 1 - k = 10 - (s.e_pos.toNat + k) by omega]
    · rw [readByte_encodeResult_padding id0 (by omega),
        readByte_usedSuffix_padding _ _ _ (Nat.not_lt.mp used)]
  rw [← len, ← str]

/-- A turn of `ENC` keeps the encoder's invariant. -/
theorem EncInv.after_encStep {s t : State} (h : EncInv s) (next : encStep s = .next t) :
    EncInv t := by
  rcases encStep_cases next with
    ⟨enabled, pos_ge, pos_le, rfl⟩ | ⟨-, enabled, pos_le, rfl⟩ | ⟨-, rfl⟩
  · obtain ⟨busy, -⟩ := (digitEnabled_iff s).mp enabled
    have notDone : s.e_done = false := Bool.eq_false_iff.mpr fun done => h.exclusive ⟨busy, done⟩
    obtain ⟨id0, working⟩ := h.working busy
    exact
      { pos_le := by rw [State.putDigit_e_pos, pos_sub_one_toNat pos_ge]; omega
        exclusive := h.exclusive
        working := fun _ => ⟨id0, working.putDigit enabled pos_ge pos_le⟩
        result := fun done => absurd done (by simp [notDone])
        blank := h.blank }
  · obtain ⟨busy, -⟩ := (encFinishEnabled_iff s).mp enabled
    obtain ⟨id0, working⟩ := h.working busy
    exact
      { pos_le := pos_le
        exclusive := by simp
        working := fun busy => absurd busy (by simp)
        result := fun _ => ⟨id0, working.publishString enabled pos_le⟩
        blank := fun notDone => absurd notDone (by simp) }
  · exact h

/-- `raise InvalidShiny` meets the decoder's invariant where the operands have that error as their
result (R27, R123). -/
theorem DecInv.raiseInvalidShiny {s : State} (cause : ShinyError)
    (fails : decodeResult s.d_len s.d_in = .invalidShiny cause) :
    DecInv (s.raiseInvalidShiny cause) := by
  constructor <;> simp [fails, DecodeResult.outcome]

/-- `D-CHAR` moves the pointer, which is below the length, without overflow (R22, R103). -/
theorem foldChar_pos_toNat {s : State} (pos_lt : s.d_pos.toNat < s.d_len.toNat) :
    s.foldChar.d_pos.toNat = s.d_pos.toNat + 1 := by
  have inRange : s.d_pos.toNat + 1 < 2 ^ 4 := Nat.lt_of_le_of_lt pos_lt s.d_len.isLt
  rw [State.foldChar_d_pos, BitVec.toNat_add_of_lt inRange]
  rfl

/-- `D-CHAR` keeps the decoder's invariant where the character folds (R103). -/
theorem DecInv.foldChar {s : State} (h : DecInv s) (enabled : s.charEnabled = true)
    (good : charInvalid s.nextChar = false) : DecInv s.foldChar := by
  obtain ⟨busy, valid, pos_lt⟩ := (charEnabled_iff s).mp enabled
  obtain ⟨-, looked, acc⟩ := h.folded busy valid
  have pos := foldChar_pos_toNat pos_lt
  have started : lengthInvalid s.d_len ≠ true := by simp [valid]
  have new : isAlphaChar s.nextChar = true := by simpa [charInvalid_eq_not] using good
  exact
    { exclusive := h.exclusive
      error := h.error
      noError := h.noError
      blank := h.blank
      started := fun _ invalid => absurd invalid started
      folded := fun _ _ => by
        refine ⟨?_, fun k hk => ?_, ?_⟩
        · rw [BitVec.le_def, pos]
          exact pos_lt
        · rw [pos] at hk
          rcases Nat.lt_succ_iff_lt_or_eq.mp hk with before | rfl
          · exact looked k before
          · exact new
        · rw [pos, foldChars_succ, State.foldChar_d_acc, acc]
          rfl
      result := fun done => absurd ⟨busy, done⟩ h.exclusive }

/-- `D-FINISH` publishes the value of the command (R105, R108). -/
theorem DecInv.publishValue {s : State} (h : DecInv s) (enabled : s.decFinishEnabled = true) :
    DecInv s.publishValue := by
  obtain ⟨busy, valid, atEnd⟩ := (decFinishEnabled_iff s).mp enabled
  obtain ⟨-, looked, acc⟩ := h.folded busy valid
  have ok : decodeResult s.d_len s.d_in = .ok s.d_acc := by
    rw [decodeResult_eq_ok_iff, ← atEnd]
    exact ⟨atEnd ▸ valid, looked, acc.symm⟩
  constructor <;> simp [ok, DecodeResult.outcome]

/-- A turn of `DEC` keeps the decoder's invariant. -/
theorem DecInv.after_decStep {s : State} (h : DecInv s) : DecInv (decStep s) := by
  rcases decStep_cases s with ⟨-, invalid, eq⟩ | ⟨enabled, bad, eq⟩ | ⟨enabled, good, eq⟩ |
    ⟨enabled, eq⟩ | ⟨-, eq⟩ <;> rw [eq]
  · exact raiseInvalidShiny _ ((decodeResult_eq_length_iff _ _).mpr invalid)
  · obtain ⟨-, valid, pos_lt⟩ := (charEnabled_iff s).mp enabled
    exact raiseInvalidShiny _ ((decodeResult_eq_character_iff _ _).mpr ⟨valid, _, pos_lt, bad⟩)
  · exact h.foldChar enabled good
  · exact h.publishValue enabled
  · exact h

/-- The invariant does not speak of the port and the schedule. -/
theorem Inv.withHost {s : State} (h : Inv s) (port : Option CmdWord) (turns : List Move) :
    Inv (s.withHost port turns) :=
  ⟨h.enc.of_sameEnc (sameEnc_withHost port turns s),
    h.dec.of_sameDec (sameDec_withHost port turns s)⟩

theorem Inv.after_encStep {s t : State} (h : Inv s) (next : encStep s = .next t) : Inv t :=
  ⟨h.enc.after_encStep next, h.dec.of_sameDec (encStep_sameDec next)⟩

theorem Inv.after_decStep {s : State} (h : Inv s) : Inv (decStep s) :=
  ⟨h.enc.of_sameEnc (decStep_sameEnc s), h.dec.after_decStep⟩

/-- A command leaves the encoder alone or starts it afresh. -/
theorem EncInv.after_exec {s t : State} (h : EncInv s) {i : Instr} (next : exec i s = .next t) :
    EncInv t := by
  rcases exec_cases i s with waits | ⟨ignored, id, -, -, accepts⟩ | ⟨slen, str, -, -, accepts⟩
  · obtain rfl : s = t := by simpa [waits] using next
    exact h
  · obtain rfl : s.encAccept id = t := by simpa [accepts] using next
    exact encInv_encAccept id s
  · obtain rfl : s.decAccept slen str = t := by simpa [accepts] using next
    exact h.of_sameEnc ⟨rfl, rfl, rfl, rfl, rfl, rfl, rfl⟩

/-- A command leaves the decoder alone or starts it afresh. -/
theorem DecInv.after_exec {s t : State} (h : DecInv s) {i : Instr} (next : exec i s = .next t) :
    DecInv t := by
  rcases exec_cases i s with waits | ⟨ignored, id, -, -, accepts⟩ | ⟨slen, str, -, -, accepts⟩
  · obtain rfl : s = t := by simpa [waits] using next
    exact h
  · obtain rfl : s.encAccept id = t := by simpa [accepts] using next
    exact h.of_sameDec ⟨rfl, rfl, rfl, rfl, rfl, rfl, rfl, rfl, rfl⟩
  · obtain rfl : s.decAccept slen str = t := by simpa [accepts] using next
    exact decInv_decAccept slen str s

theorem Inv.after_exec {s t : State} (h : Inv s) {i : Instr} (next : exec i s = .next t) : Inv t :=
  ⟨h.enc.after_exec next, h.dec.after_exec next⟩

/-- Settles O44: up to the port and the schedule, which the invariant does not speak of, a step is a
reset, a turn of a unit, the meaning of a command, or nothing. -/
theorem everyStepKeepsTheInvariant : Obligations.EveryStepKeepsTheInvariant := by
  intro s t h next
  obtain ⟨port, turns, rfl | ⟨-, rfl⟩ | enc | rfl | ⟨cmd, -, -, run⟩⟩ := step_cases next
  · exact h.withHost port turns
  · exact inv_resetRegisters _
  · exact (h.withHost port turns).after_encStep enc
  · exact (h.withHost port turns).after_decStep
  · exact (h.withHost port turns).after_exec run

theorem exec_answers (i : Instr) (s : State) : ∃ t, exec i s = .next t := by
  rcases exec_cases i s with waits | ⟨ignored, id, -, -, accepts⟩ | ⟨slen, str, -, -, accepts⟩
  · exact ⟨_, waits⟩
  · exact ⟨_, accepts⟩
  · exact ⟨_, accepts⟩

theorem acceptStep_answers (s : State) : ∃ t, acceptStep s = .next t := by
  cases port : s.cmd_port with
  | none => exact ⟨s, acceptStep_of_port_none port⟩
  | some cmd =>
    cases ready : cmdReady cmd s with
    | true =>
      rw [acceptStep_of_ready port ready]
      exact exec_answers _ _
    | false => exact ⟨s, (acceptStep_of_not_ready port ready).trans (exec_of_not_ready ready)⟩

/-- Under the invariant a turn of `ENC` does not stop (R12, R127). -/
theorem EncInv.encStep_answers {s : State} (h : EncInv s) : ∃ t, encStep s = .next t := by
  obtain ⟨t, next⟩ :=
    (h.of_sameEnc (sameEnc_withSchedule (.enc :: s.schedule) s)).step_enc_answers rfl
  exact ⟨t, next⟩

theorem EncInv.unitTurn_answers {s : State} (h : EncInv s) : ∃ t, unitTurn s = .next t := by
  cases enabled : s.encEnabled with
  | true =>
    rw [unitTurn_of_encEnabled enabled]
    exact h.encStep_answers
  | false => exact ⟨_, unitTurn_of_not_encEnabled enabled⟩

theorem EncInv.waitTurn_answers {s : State} (h : EncInv s) (ready : Bool) (rest : List Move) :
    ∃ t, waitTurn ready rest s = .next t := by
  cases ready with
  | true => exact ⟨_, waitTurn_of_ready rest s rfl⟩
  | false =>
    rw [waitTurn_of_not_ready rest s rfl]
    exact h.unitTurn_answers

theorem EncInv.takeTurn_answers {s : State} (h : EncInv s) (m : Move) (rest : List Move) :
    ∃ t, takeTurn m rest s = .next t := by
  cases m with
  | reset | present | withdraw | dec => exact ⟨_, rfl⟩
  | accept => exact acceptStep_answers _
  | enc => exact (h.of_sameEnc (sameEnc_withSchedule rest s)).encStep_answers
  | waitEnc | waitDec => exact h.waitTurn_answers _ rest

/-- Settles O45: only a turn of `ENC` can stop, and under its invariant it does not. -/
theorem noTurnStopsTheBlock : Obligations.NoTurnStopsTheBlock := by
  intro s h
  cases turns : s.schedule with
  | nil =>
    cases acceptable : s.acceptable with
    | true =>
      rw [step_free_of_acceptable turns acceptable]
      exact acceptStep_answers s
    | false =>
      rw [step_free_of_not_acceptable turns acceptable]
      exact h.enc.unitTurn_answers
  | cons m rest =>
    rw [step_cons turns]
    exact h.enc.takeTurn_answers m rest

/-- A busy encoder has a digit to store, or is done storing (R9). -/
theorem encoder_guards_of_busy {s : State} (busy : s.e_busy = true) :
    Xor (s.digitEnabled = true) (s.encFinishEnabled = true) := by
  rw [digitEnabled_iff, encFinishEnabled_iff, Xor]
  tauto

theorem encEnabled_of_busy {s : State} (busy : s.e_busy = true) : s.encEnabled = true := by
  rw [State.encEnabled, Bool.or_eq_true]
  exact (encoder_guards_of_busy busy).or

/-- A busy decoder's pointer is at most the length, so that with a valid length there is a character
to look up or the value to publish (R9, R22). -/
theorem DecInv.guards_of_busy {s : State} (h : DecInv s) (busy : s.d_busy = true) :
    [s.lenFailEnabled, s.charEnabled, s.decFinishEnabled].count true = 1 := by
  cases valid : lengthInvalid s.d_len with
  | true => simp [State.lenFailEnabled, State.charEnabled, State.decFinishEnabled, busy, valid]
  | false =>
    obtain ⟨pos_le, -, -⟩ := h.folded busy valid
    by_cases atEnd : s.d_pos = s.d_len
    · simp [State.lenFailEnabled, State.charEnabled, State.decFinishEnabled, busy, valid, atEnd]
    · have pos_lt : s.d_pos < s.d_len := BitVec.lt_of_le_ne pos_le atEnd
      simp [State.lenFailEnabled, State.charEnabled, State.decFinishEnabled, busy, valid, atEnd,
        pos_lt]

theorem DecInv.decEnabled_of_busy {s : State} (h : DecInv s) (busy : s.d_busy = true) :
    s.decEnabled = true := by
  have one := h.guards_of_busy busy
  rw [State.decEnabled]
  cases lenFail : s.lenFailEnabled with
  | true => rfl
  | false =>
    cases char : s.charEnabled with
    | true => rfl
    | false => simpa [lenFail, char, List.count_cons] using one

theorem decEnabled_of_idle {s : State} (idle : s.d_busy = false) : s.decEnabled = false := by
  simp [State.decEnabled, State.lenFailEnabled, State.charEnabled, State.decFinishEnabled, idle]

/-- Settles O46: the guards of each unit exclude each other and, under the invariant, exhaust its
busy states; all of them ask for the busy flag. -/
theorem busyUnitHasExactlyOneEnabledStep : Obligations.BusyUnitHasExactlyOneEnabledStep :=
  fun _ h => ⟨encoder_guards_of_busy, encEnabled_eq_false_of_idle, h.dec.guards_of_busy,
    decEnabled_of_idle⟩

end Sys2Proof.Machine
end

section
/-! What unit `ENC` holds while it is busy, in the arithmetic form of 10_state.md R17. -/

namespace Sys2Proof.Machine

/-- The low `n` digits of an identifier, most significant first, make the identifier modulo
`64 ^ n`. -/
theorem sum_digits_eq_mod (id : Ident) (n : Nat) :
    ((List.range n).map fun j => (digitAt id (n - 1 - j)).toNat * 64 ^ (n - 1 - j)).sum =
      id.toNat % 64 ^ n := by
  induction n with
  | zero => simp [Nat.mod_one]
  | succ n ih =>
    rw [List.range_succ_eq_map, List.map_cons, List.sum_cons, List.map_map, Nat.mod_pow_succ, ← ih,
      digitAt_toNat]
    simp only [Function.comp_def, Nat.succ_eq_add_one, Nat.add_sub_cancel, Nat.sub_zero,
      Nat.sub_sub, Nat.add_comm 1]
    ring

/-- The stored digits, each at its place, are the identifier modulo `64 ^ (11 - e_pos)`. -/
theorem EncWorking.sum_stored {id0 : Ident} {s : State} (h : EncWorking id0 s)
    (pos_le : s.e_pos.toNat ≤ 11) :
    ((List.range 11).map fun k =>
      if s.e_pos.toNat ≤ k then (rev (readByte s.e_buf k)).toNat * 64 ^ (10 - k) else 0).sum =
      id0.toNat % 64 ^ (11 - s.e_pos.toNat) := by
  have below : ∀ k ∈ List.range s.e_pos.toNat,
      (if s.e_pos.toNat ≤ k then (rev (readByte s.e_buf k)).toNat * 64 ^ (10 - k) else 0) = 0 := by
    intro k hk
    rw [if_neg (Nat.not_le.mpr (List.mem_range.mp hk))]
  have stored : ∀ j ∈ List.range (11 - s.e_pos.toNat),
      (if s.e_pos.toNat ≤ s.e_pos.toNat + j then
        (rev (readByte s.e_buf (s.e_pos.toNat + j))).toNat * 64 ^ (10 - (s.e_pos.toNat + j))
      else 0) = (digitAt id0 (11 - s.e_pos.toNat - 1 - j)).toNat *
        64 ^ (11 - s.e_pos.toNat - 1 - j) := by
    intro j hj
    have hj := List.mem_range.mp hj
    rw [if_pos (Nat.le_add_right _ _), h.filled _ (Nat.le_add_right _ _) (by omega),
      ← digitOfChar_toNat _ (isAlphaChar_alpha _), digitOfChar_alpha,
      show 10 - (s.e_pos.toNat + j) = 11 - s.e_pos.toNat - 1 - j by omega]
  have split : List.range 11 = List.range s.e_pos.toNat ++
      (List.range (11 - s.e_pos.toNat)).map (s.e_pos.toNat + ·) := by
    rw [← List.range_add, Nat.add_sub_cancel' pos_le]
  rw [split, List.map_append, List.sum_append, List.map_map, List.map_congr_left below,
    ← sum_digits_eq_mod]
  simp only [Function.comp_def]
  rw [List.map_congr_left stored]
  simp

/-- Settles O47: what is left is the identifier divided by `64 ^ (11 - e_pos)`, and what is stored
is the remainder. -/
theorem storedDigitsAndRestMakeTheIdentifier :
    Obligations.StoredDigitsAndRestMakeTheIdentifier := by
  intro s h busy
  obtain ⟨id0, working⟩ := h.working busy
  refine ⟨id0, ?_, working.rest, fun k stored inBuffer => ?_, working.clear⟩
  · rw [working.sum_stored h.pos_le, working.rest, shiftDigits_toNat, Nat.div_add_mod']
  · rw [working.filled k stored (by omega), isAlphaChar_alpha]

end Sys2Proof.Machine
end

section
/-! How long results last, and what never shows: a finished unit keeps its outcome until its next
accept (70_reset_and_hazards.md R149), and ignored characters are not seen (30_encoding.md R65). -/

namespace Sys2Proof.Machine

theorem acceptsEncode_of_port {s : State} {cmd : CmdWord} (port : s.cmd_port = some cmd) :
    s.acceptsEncode = (!opcodeBit cmd && !s.e_busy) := by
  rw [State.acceptsEncode, port]

theorem acceptsDecode_of_port {s : State} {cmd : CmdWord} (port : s.cmd_port = some cmd) :
    s.acceptsDecode = (opcodeBit cmd && !s.d_busy) := by
  rw [State.acceptsDecode, port]

/-- `DECODE` is accepted or waits, for every operand in every state (R70, R101). -/
theorem exec_decode_cases (slen : Len) (str : Buffer) (s : State) :
    exec (.decode slen str) s = .next s ∨
      exec (.decode slen str) s = .next (s.decAccept slen str) := by
  cases busy : s.d_busy with
  | true => exact .inl (exec_decode_of_busy slen str busy)
  | false => exact .inr (exec_decode_of_idle slen str busy)

/-- A command that is no `ENCODE` for an idle encoder leaves the encoder alone. -/
theorem exec_sameEnc {s t : State} {cmd : CmdWord}
    (notAccepted : (!opcodeBit cmd && !s.e_busy) = false)
    (next : exec (decodeWord cmd) s = .next t) : SameEnc s t := by
  cases opcode : cmd.getLsbD 92 with
  | false =>
    rw [opcodeBit, opcode] at notAccepted
    have busy : s.e_busy = true := by simpa using notAccepted
    rw [decodeWord_of_opcode_clear opcode, exec_encode_of_busy _ _ busy] at next
    cases next
    exact SameEnc.refl s
  | true =>
    rw [decodeWord_of_opcode_set opcode] at next
    rcases exec_decode_cases _ _ s with h | h <;> rw [h] at next <;> cases next <;>
      exact ⟨rfl, rfl, rfl, rfl, rfl, rfl, rfl⟩

/-- A command that is no `DECODE` for an idle decoder leaves the decoder alone. -/
theorem exec_sameDec {s t : State} {cmd : CmdWord}
    (notAccepted : (opcodeBit cmd && !s.d_busy) = false)
    (next : exec (decodeWord cmd) s = .next t) : SameDec s t := by
  cases opcode : cmd.getLsbD 92 with
  | false =>
    rw [decodeWord_of_opcode_clear opcode] at next
    rcases exec_encode_cases _ _ s with h | h <;> rw [h] at next <;> cases next <;>
      exact ⟨rfl, rfl, rfl, rfl, rfl, rfl, rfl, rfl, rfl⟩
  | true =>
    rw [opcodeBit, opcode] at notAccepted
    have busy : s.d_busy = true := by simpa using notAccepted
    rw [decodeWord_of_opcode_set opcode, exec_decode_of_busy _ _ busy] at next
    cases next
    exact SameDec.refl s

/-- A turn of `ENC` changes nothing while the unit is idle (R9). -/
theorem encStep_of_idle {s : State} (idle : s.e_busy = false) : encStep s = .next s := by
  simp [encStep, State.digitEnabled, State.encFinishEnabled, idle]

/-- An idle encoder stays as it is at every step but a reset turn and the accept of an `ENCODE`. -/
theorem step_sameEnc_of_idle {s t : State} (noReset : s.schedule.head? ≠ some .reset)
    (idle : s.e_busy = false) (notAccepted : (s.acceptTurnNext && s.acceptsEncode) = false)
    (next : step s = .next t) : SameEnc s t := by
  obtain ⟨port, turns, rfl | ⟨reset, -⟩ | enc | rfl | ⟨cmd, turn, presented, run⟩⟩ :=
    step_cases next
  · exact sameEnc_withHost port turns s
  · exact absurd reset noReset
  · have idle' : (s.withHost port turns).e_busy = false := idle
    rw [encStep_of_idle idle'] at enc
    cases enc
    exact sameEnc_withHost port turns s
  · exact (sameEnc_withHost port turns s).trans (decStep_sameEnc _)
  · rw [turn, Bool.true_and, acceptsEncode_of_port presented] at notAccepted
    exact (sameEnc_withHost port turns s).trans (exec_sameEnc notAccepted run)

/-- Every step but a reset turn and the accept of a `DECODE` is nothing, or a turn of `DEC`, to the
registers of the decoder. -/
theorem step_sameDec_cases {s t : State} (noReset : s.schedule.head? ≠ some .reset)
    (notAccepted : (s.acceptTurnNext && s.acceptsDecode) = false) (next : step s = .next t) :
    SameDec s t ∨ SameDec (decStep s) t := by
  obtain ⟨port, turns, rfl | ⟨reset, -⟩ | enc | rfl | ⟨cmd, turn, presented, run⟩⟩ :=
    step_cases next
  · exact .inl (sameDec_withHost port turns s)
  · exact absurd reset noReset
  · exact .inl ((sameDec_withHost port turns s).trans (encStep_sameDec enc))
  · exact .inr (decStep_of_sameDec (sameDec_withHost port turns s))
  · rw [turn, Bool.true_and, acceptsDecode_of_port presented] at notAccepted
    exact .inl ((sameDec_withHost port turns s).trans (exec_sameDec notAccepted run))

/-- Settles O54: a finished unit is idle, so its registers stay as they are; the operands of a
`DECODE` are held by the steps of `DEC` as well. -/
theorem outcomesLastUntilAcceptOrReset : Obligations.OutcomesLastUntilAcceptOrReset := by
  intro s t h noReset next
  refine ⟨fun done notAccepted => ?_, fun done notAccepted => ?_, fun notAccepted => ?_⟩
  · have idle : s.e_busy = false := Bool.eq_false_iff.mpr fun busy => h.enc.exclusive ⟨busy, done⟩
    have same := step_sameEnc_of_idle noReset idle notAccepted next
    exact ⟨same.e_done ▸ done, same.e_len.symm, same.e_str.symm⟩
  · have idle : s.d_busy = false := Bool.eq_false_iff.mpr fun busy => h.dec.exclusive ⟨busy, done⟩
    have same : SameDec s t := by
      have either := step_sameDec_cases noReset notAccepted next
      rwa [decStep_of_idle idle, or_self] at either
    exact ⟨same.d_done ▸ done, same.d_err.symm, same.d_cause.symm, same.d_val.symm⟩
  · obtain ⟨len, chars⟩ := decStep_operands s
    rcases step_sameDec_cases noReset notAccepted next with same | same
    · exact ⟨same.d_len.symm, same.d_in.symm⟩
    · exact ⟨same.d_len.symm.trans len, same.d_in.symm.trans chars⟩

/-- The state with other characters in the decoder's input buffer. -/
def State.withInput (buf : Buffer) (s : State) : State := { s with d_in := buf }

theorem sameButIgnored_withInput {buf : Buffer} {s : State} (h : SameReadChars s.d_len s.d_in buf) :
    SameButIgnored s (s.withInput buf) :=
  ⟨h, rfl⟩

theorem SameButIgnored.refl (s : State) : SameButIgnored s s := ⟨fun _ _ _ => rfl, rfl⟩

theorem SameButIgnored.eq_withInput {s t : State} (h : SameButIgnored s t) :
    t = s.withInput t.d_in :=
  h.others

/-- What the ports show is no character of the input buffer (R71). -/
theorem ports_withInput (buf : Buffer) (s : State) : (s.withInput buf).ports = s.ports := rfl

/-- If the first outcome is a next state, so is the second, and they differ in ignored characters
only. -/
def OutcomesAgree (o p : Outcome) : Prop := ∀ u, o = .next u → ∃ v, p = .next v ∧ SameButIgnored u v

theorem outcomesAgree_next {u v : State} (h : SameButIgnored u v) :
    OutcomesAgree (.next u) (.next v) := by
  rintro _ ⟨⟩
  exact ⟨v, rfl, h⟩

theorem outcomesAgree_encStep {s : State} {buf : Buffer} (h : SameReadChars s.d_len s.d_in buf) :
    OutcomesAgree (encStep s) (encStep (s.withInput buf)) := by
  intro u next
  have same := encStep_sameDec next
  refine ⟨u.withInput buf, ?_, sameButIgnored_withInput (by rwa [← same.d_len, ← same.d_in])⟩
  rw [encStep_map (State.withInput buf) s ⟨rfl, rfl, rfl, rfl, rfl, rfl, rfl⟩ rfl rfl, next,
    mapNext_next]

/-- A turn of `DEC` looks at a character only where it is below a valid length (R65, R103). -/
theorem decStep_withInput {s : State} {buf : Buffer} (h : SameReadChars s.d_len s.d_in buf) :
    decStep (s.withInput buf) = (decStep s).withInput buf := by
  have lenFail : (s.withInput buf).lenFailEnabled = s.lenFailEnabled := rfl
  have char : (s.withInput buf).charEnabled = s.charEnabled := rfl
  have finish : (s.withInput buf).decFinishEnabled = s.decFinishEnabled := rfl
  by_cases enabled : s.charEnabled = true
  · obtain ⟨-, valid, pos_lt⟩ := (charEnabled_iff s).mp enabled
    have sameChar : (s.withInput buf).nextChar = s.nextChar := (h valid _ pos_lt).symm
    have fold : (s.withInput buf).foldChar = s.foldChar.withInput buf := by
      simp only [State.foldChar, sameChar]
      rfl
    rw [decStep_of_charEnabled enabled, decStep_of_charEnabled (char.trans enabled), decChar,
      decChar, sameChar, fold]
    split_ifs <;> rfl
  · rw [decStep, decStep, lenFail, char, finish, if_neg enabled, if_neg enabled]
    split_ifs <;> rfl

theorem outcomesAgree_decStep {s : State} {buf : Buffer} (h : SameReadChars s.d_len s.d_in buf) :
    OutcomesAgree (.next (decStep s)) (.next (decStep (s.withInput buf))) := by
  obtain ⟨len, chars⟩ := decStep_operands s
  rw [decStep_withInput h]
  exact outcomesAgree_next (sameButIgnored_withInput (by rwa [len, chars]))

theorem outcomesAgree_unitTurn {s : State} {buf : Buffer} (h : SameReadChars s.d_len s.d_in buf) :
    OutcomesAgree (unitTurn s) (unitTurn (s.withInput buf)) := by
  have guard : (s.withInput buf).encEnabled = s.encEnabled := rfl
  cases enabled : s.encEnabled with
  | true =>
    rw [unitTurn_of_encEnabled enabled, unitTurn_of_encEnabled (guard.trans enabled)]
    exact outcomesAgree_encStep h
  | false =>
    rw [unitTurn_of_not_encEnabled enabled, unitTurn_of_not_encEnabled (guard.trans enabled)]
    exact outcomesAgree_decStep h

theorem outcomesAgree_exec {s : State} {buf : Buffer} (h : SameReadChars s.d_len s.d_in buf)
    (i : Instr) : OutcomesAgree (exec i s) (exec i (s.withInput buf)) := by
  cases i with
  | encode ignored id =>
    cases busy : s.e_busy with
    | true =>
      have busy' : (s.withInput buf).e_busy = true := busy
      rw [exec_encode_of_busy _ _ busy, exec_encode_of_busy _ _ busy']
      exact outcomesAgree_next (sameButIgnored_withInput h)
    | false =>
      have idle' : (s.withInput buf).e_busy = false := busy
      rw [exec_encode_of_idle _ _ busy, exec_encode_of_idle _ _ idle']
      exact outcomesAgree_next ⟨h, rfl⟩
  | decode slen str =>
    cases busy : s.d_busy with
    | true =>
      have busy' : (s.withInput buf).d_busy = true := busy
      rw [exec_decode_of_busy _ _ busy, exec_decode_of_busy _ _ busy']
      exact outcomesAgree_next (sameButIgnored_withInput h)
    | false =>
      have idle' : (s.withInput buf).d_busy = false := busy
      rw [exec_decode_of_idle _ _ busy, exec_decode_of_idle _ _ idle']
      exact outcomesAgree_next (SameButIgnored.refl _)

theorem outcomesAgree_acceptStep {s : State} {buf : Buffer} (h : SameReadChars s.d_len s.d_in buf) :
    OutcomesAgree (acceptStep s) (acceptStep (s.withInput buf)) := by
  cases port : s.cmd_port with
  | none =>
    have port' : (s.withInput buf).cmd_port = none := port
    rw [acceptStep_of_port_none port, acceptStep_of_port_none port']
    exact outcomesAgree_next (sameButIgnored_withInput h)
  | some cmd =>
    have port' : (s.withInput buf).cmd_port = some cmd := port
    have guard : cmdReady cmd (s.withInput buf) = cmdReady cmd s := rfl
    cases ready : cmdReady cmd s with
    | true =>
      rw [acceptStep_of_ready port ready, acceptStep_of_ready port' (guard.trans ready)]
      exact outcomesAgree_exec (s := s.withPort none) h _
    | false =>
      rw [acceptStep_of_not_ready port ready, acceptStep_of_not_ready port' (guard.trans ready)]
      exact outcomesAgree_exec h _

theorem outcomesAgree_waitTurn {s : State} {buf : Buffer} (h : SameReadChars s.d_len s.d_in buf)
    (ready : Bool) (rest : List Move) :
    OutcomesAgree (waitTurn ready rest s) (waitTurn ready rest (s.withInput buf)) := by
  cases ready with
  | true =>
    rw [waitTurn_of_ready rest _ rfl, waitTurn_of_ready rest _ rfl]
    exact outcomesAgree_next ⟨h, rfl⟩
  | false =>
    rw [waitTurn_of_not_ready rest _ rfl, waitTurn_of_not_ready rest _ rfl]
    exact outcomesAgree_unitTurn h

theorem outcomesAgree_takeTurn {s : State} {buf : Buffer} (h : SameReadChars s.d_len s.d_in buf)
    (m : Move) (rest : List Move) :
    OutcomesAgree (takeTurn m rest s) (takeTurn m rest (s.withInput buf)) := by
  cases m with
  | reset => exact outcomesAgree_next (SameButIgnored.refl _)
  | present cmd => exact outcomesAgree_next ⟨h, rfl⟩
  | withdraw => exact outcomesAgree_next ⟨h, rfl⟩
  | accept => exact outcomesAgree_acceptStep (s := s.withSchedule rest) h
  | enc => exact outcomesAgree_encStep (s := s.withSchedule rest) h
  | dec => exact outcomesAgree_decStep (s := s.withSchedule rest) h
  | waitEnc => exact outcomesAgree_waitTurn h s.e_done rest
  | waitDec => exact outcomesAgree_waitTurn h s.d_done rest

theorem outcomesAgree_step {s : State} {buf : Buffer} (h : SameReadChars s.d_len s.d_in buf) :
    OutcomesAgree (step s) (step (s.withInput buf)) := by
  cases turns : s.schedule with
  | nil =>
    have turns' : (s.withInput buf).schedule = [] := turns
    have guard : (s.withInput buf).acceptable = s.acceptable := rfl
    cases acceptable : s.acceptable with
    | true =>
      rw [step_free_of_acceptable turns acceptable,
        step_free_of_acceptable turns' (guard.trans acceptable)]
      exact outcomesAgree_acceptStep h
    | false =>
      rw [step_free_of_not_acceptable turns acceptable,
        step_free_of_not_acceptable turns' (guard.trans acceptable)]
      exact outcomesAgree_unitTurn h
  | cons m rest =>
    have turns' : (s.withInput buf).schedule = m :: rest := turns
    rw [step_cons turns, step_cons turns']
    exact outcomesAgree_takeTurn h m rest

/-- Settles O53: the input buffer is looked at below a valid length alone, which an accept sets up
and every step keeps. -/
theorem ignoredCharactersAreNeverSeen : Obligations.IgnoredCharactersAreNeverSeen := by
  refine ⟨fun slen a b s same idle => ?_, fun s t h => ?_, fun s t u h next => ?_⟩
  · exact ⟨_, _, exec_decode_of_idle slen a idle, exec_decode_of_idle slen b idle, same, rfl⟩
  · rw [h.eq_withInput, ports_withInput]
  · rw [h.eq_withInput]
    exact outcomesAgree_step h.chars u next

end Sys2Proof.Machine
end

section
/-! Runs of turns that each take one step: the run as a composition of the turns' meanings, and the
interleavings of unit turns (20_memory.md R52). -/

namespace Sys2Proof.Machine

/-- The meaning of a turn, with the schedule left as it stands. -/
def turnOf (m : Move) (s : State) : Outcome := takeTurn m s.schedule s

/-- Turns one after the other, stopping at the first stop. -/
def runTurns : List Move → State → Outcome
  | [], s => .next s
  | m :: rest, s => andThen (turnOf m s) (runTurns rest)

@[simp] theorem turnOf_enc (s : State) : turnOf .enc s = encStep s := rfl
@[simp] theorem turnOf_dec (s : State) : turnOf .dec s = .next (decStep s) := rfl
@[simp] theorem turnOf_accept (s : State) : turnOf .accept s = acceptStep s := rfl
@[simp] theorem turnOf_present (cmd : CmdWord) (s : State) :
    turnOf (.present cmd) s = .next (s.withPort (some cmd)) := rfl
@[simp] theorem turnOf_withdraw (s : State) : turnOf .withdraw s = .next (s.withPort none) := rfl

@[simp] theorem runTurns_nil (s : State) : runTurns [] s = .next s := rfl

theorem runTurns_cons_of_next {m : Move} {rest : List Move} {s t : State}
    (next : turnOf m s = .next t) : runTurns (m :: rest) s = runTurns rest t := by
  rw [runTurns, next, andThen_next]

theorem runTurns_enc_of_next {rest : List Move} {s t : State} (next : encStep s = .next t) :
    runTurns (.enc :: rest) s = runTurns rest t :=
  runTurns_cons_of_next next

theorem runTurns_append (a b : List Move) (s : State) :
    runTurns (a ++ b) s = andThen (runTurns a s) (runTurns b) := by
  induction a generalizing s with
  | nil => rfl
  | cons m a ih => rw [List.cons_append, runTurns, runTurns, andThen_assoc, funext ih]

theorem exec_withSchedule (i : Instr) (turns : List Move) (s : State) :
    exec i (s.withSchedule turns) = mapNext (State.withSchedule turns) (exec i s) := by
  cases i with
  | encode ignored id =>
    cases busy : s.e_busy with
    | true =>
      rw [exec_encode_of_busy _ _ busy, exec_encode_of_busy _ _ (s := s.withSchedule turns) busy,
        mapNext_next]
    | false =>
      rw [exec_encode_of_idle _ _ busy, exec_encode_of_idle _ _ (s := s.withSchedule turns) busy]
      rfl
  | decode slen str =>
    cases busy : s.d_busy with
    | true =>
      rw [exec_decode_of_busy _ _ busy, exec_decode_of_busy _ _ (s := s.withSchedule turns) busy,
        mapNext_next]
    | false =>
      rw [exec_decode_of_idle _ _ busy, exec_decode_of_idle _ _ (s := s.withSchedule turns) busy]
      rfl

theorem acceptStep_withSchedule (turns : List Move) (s : State) :
    acceptStep (s.withSchedule turns) = mapNext (State.withSchedule turns) (acceptStep s) := by
  cases port : s.cmd_port with
  | none =>
    have port' : (s.withSchedule turns).cmd_port = none := port
    rw [acceptStep_of_port_none port, acceptStep_of_port_none port', mapNext_next]
  | some cmd =>
    have port' : (s.withSchedule turns).cmd_port = some cmd := port
    have guard : cmdReady cmd (s.withSchedule turns) = cmdReady cmd s := rfl
    cases ready : cmdReady cmd s with
    | true =>
      rw [acceptStep_of_ready port ready, acceptStep_of_ready port' (guard.trans ready),
        ← exec_withSchedule]
      rfl
    | false =>
      rw [acceptStep_of_not_ready port ready, acceptStep_of_not_ready port' (guard.trans ready),
        exec_withSchedule]

/-- A turn that is no wait does not look at the turns behind it. -/
theorem turnOf_withSchedule {m : Move} (leaves : m.leavesCommands = true) (turns : List Move)
    (s : State) :
    turnOf m (s.withSchedule turns) = mapNext (State.withSchedule turns) (turnOf m s) := by
  cases m with
  | present | withdraw => rfl
  | accept => exact acceptStep_withSchedule turns s
  | enc => exact encStep_withSchedule turns s
  | dec => exact congrArg Host.Outcome.next (decStep_withSchedule turns s)
  | reset | waitEnc | waitDec => cases leaves

theorem turnOf_schedule {m : Move} (leaves : m.leavesCommands = true) {s t : State}
    (next : turnOf m s = .next t) : t.schedule = s.schedule := by
  have same := turnOf_withSchedule leaves s.schedule s
  rw [withSchedule_self, next, mapNext_next, Host.Outcome.next.injEq] at same
  rw [same]
  rfl

theorem step_of_leavesCommands {m : Move} (leaves : m.leavesCommands = true) (rest : List Move)
    (s : State) : step (s.withSchedule (m :: rest)) = turnOf m (s.withSchedule rest) := by
  cases m with
  | present | withdraw | accept | enc | dec => rfl
  | reset | waitEnc | waitDec => cases leaves

/-- Steps along a schedule of turns that are no waits are those turns, one after the other. -/
theorem runSteps_append_turns {a : List Move} (leave : ∀ m, m ∈ a → m.leavesCommands = true)
    (b : List Move) (s : State) :
    runSteps a.length (s.withSchedule (a ++ b)) = runTurns a (s.withSchedule b) := by
  induction a generalizing s with
  | nil => rfl
  | cons m a ih =>
    obtain ⟨leaves, leave⟩ := List.forall_mem_cons.mp leave
    rw [List.length_cons, List.cons_append, runSteps_succ, step_of_leavesCommands leaves, runTurns,
      turnOf_withSchedule leaves, turnOf_withSchedule leaves]
    cases turnOf m s with
    | next t => exact ih leave t
    | fault r => rfl
    | refused r => rfl

theorem runSteps_turns {a : List Move} (leave : ∀ m, m ∈ a → m.leavesCommands = true) (s : State) :
    runSteps a.length (s.withSchedule a) = runTurns a (s.withSchedule []) := by
  simpa using runSteps_append_turns leave [] s

theorem runTurns_schedule {a : List Move} (leave : ∀ m, m ∈ a → m.leavesCommands = true)
    {s t : State} (run : runTurns a s = .next t) : t.schedule = s.schedule := by
  induction a generalizing s with
  | nil =>
    cases run
    rfl
  | cons m a ih =>
    obtain ⟨leaves, leave⟩ := List.forall_mem_cons.mp leave
    cases next : turnOf m s with
    | next u =>
      rw [runTurns_cons_of_next next] at run
      rw [ih leave run, turnOf_schedule leaves next]
    | fault r => simp [runTurns, next] at run
    | refused r => simp [runTurns, next] at run

theorem leavesCommands_of_isUnitTurn {m : Move} (unit : m.isUnitTurn = true) :
    m.leavesCommands = true := by
  cases m with
  | enc | dec => rfl
  | reset | present | withdraw | accept | waitEnc | waitDec => cases unit

/-- Two turns of units can be exchanged (R52). -/
theorem unit_turns_comm {x y : Move} (hx : x.isUnitTurn = true) (hy : y.isUnitTurn = true)
    (s : State) : andThen (turnOf x s) (turnOf y) = andThen (turnOf y s) (turnOf x) := by
  have exchange : andThen (turnOf .enc s) (turnOf .dec) = andThen (turnOf .dec s) (turnOf .enc) :=
    (encStep_decStep s).symm
  cases x with
  | enc =>
    cases y with
    | enc => rfl
    | dec => exact exchange
    | reset | present | withdraw | accept | waitEnc | waitDec => cases hy
  | dec =>
    cases y with
    | enc => exact exchange.symm
    | dec => rfl
    | reset | present | withdraw | accept | waitEnc | waitDec => cases hy
  | reset | present | withdraw | accept | waitEnc | waitDec => cases hx

theorem runTurns_perm {a b : List Move} (perm : a.Perm b) (units : ∀ m, m ∈ a → m.isUnitTurn = true)
    (s : State) : runTurns a s = runTurns b s := by
  induction perm generalizing s with
  | nil => rfl
  | cons m _ ih =>
    obtain ⟨-, units⟩ := List.forall_mem_cons.mp units
    rw [runTurns, runTurns, funext (ih units)]
  | swap x y rest =>
    obtain ⟨unitY, units⟩ := List.forall_mem_cons.mp units
    obtain ⟨unitX, -⟩ := List.forall_mem_cons.mp units
    have assoc : ∀ x y : Move, runTurns (x :: y :: rest) s =
        andThen (andThen (turnOf x s) (turnOf y)) (runTurns rest) := fun x y =>
      (andThen_assoc _ _ _).symm
    rw [assoc, assoc, unit_turns_comm unitX unitY]
  | trans first _ ih ih' =>
    rw [ih units, ih' fun m hm => units m (first.mem_iff.mpr hm)]

/-- Settles O49: a permutation is made of exchanges of neighbours, and two neighbouring unit turns
can be exchanged. -/
theorem interleavingOfUnitTurnsDoesNotMatter :
    Obligations.InterleavingOfUnitTurnsDoesNotMatter := by
  intro s a b units perm
  have leave : ∀ m, m ∈ a → m.leavesCommands = true := fun m hm =>
    leavesCommands_of_isUnitTurn (units m hm)
  have leave' : ∀ m, m ∈ b → m.leavesCommands = true := fun m hm => leave m (perm.mem_iff.mpr hm)
  rw [runSteps_turns leave, runSteps_turns leave', runTurns_perm perm units]

end Sys2Proof.Machine
end

section
/-! An accepted `ENCODE` under any interleaving: its progress digit by digit, and its end
(40_encode.md R84, R86). -/

namespace Sys2Proof.Machine

/-- A command `ENCODE id` in progress with `k` digits stored. -/
structure EncProgress (id : Ident) (k : Nat) (s : State) : Prop where
  inv : EncInv s
  busy : s.e_busy = true
  working : EncWorking id s
  pos : s.e_pos.toNat + k = 11

/-- A command `ENCODE id` has ended. -/
structure EncEnded (id : Ident) (s : State) : Prop where
  idle : s.e_busy = false
  done : s.e_done = true
  result : encodeResult id = ⟨s.e_len, s.e_str⟩

theorem encProgress_encAccept (id : Ident) (s : State) : EncProgress id 0 (s.encAccept id) :=
  ⟨encInv_encAccept id s, rfl, encWorking_encAccept id s, rfl⟩

theorem EncProgress.of_sameEnc {id : Ident} {k : Nat} {s t : State} (h : EncProgress id k s)
    (same : SameEnc s t) : EncProgress id k t :=
  ⟨h.inv.of_sameEnc same, same.e_busy ▸ h.busy, h.working.of_sameEnc same, same.e_pos ▸ h.pos⟩

theorem EncProgress.rest {id : Ident} {k : Nat} {s : State} (h : EncProgress id k s) :
    s.e_id = id >>> (6 * k) := by
  rw [h.working.rest, show 11 - s.e_pos.toNat = k by have := h.pos; omega]

theorem EncProgress.notDone {id : Ident} {k : Nat} {s : State} (h : EncProgress id k s) :
    s.e_done = false :=
  Bool.eq_false_iff.mpr fun done => h.inv.exclusive ⟨h.busy, done⟩

/-- While digits are left, or none is stored, the turn of `ENC` stores one more (R82). -/
theorem EncProgress.digit {id : Ident} {k : Nat} {s : State} (h : EncProgress id k s)
    (more : k < digitCount id) : ∃ t, encStep s = .next t ∧ EncProgress id (k + 1) t := by
  have pos := h.pos
  have bounds := digitCount_bounds id
  have enabled : s.digitEnabled = true := by
    refine (digitEnabled_iff s).mpr ⟨h.busy, ?_⟩
    by_cases first : k = 0
    · exact .inr (BitVec.eq_of_toNat_eq (by simp; omega))
    · refine .inl fun zero => ?_
      rw [h.rest, shiftDigits_eq_zero_iff] at zero
      have := digitCount_le (by omega) zero
      omega
  have next : encStep s = .next s.putDigit := by
    rw [encStep_of_digitEnabled enabled, encDigit_of_slot s (by omega) (by omega)]
  refine ⟨s.putDigit, next, h.inv.after_encStep next, h.busy,
    h.working.putDigit enabled (by omega) (by omega), ?_⟩
  rw [State.putDigit_e_pos, pos_sub_one_toNat (by omega)]
  omega

/-- With all digits stored the turn of `ENC` ends the command (R83). -/
theorem EncProgress.finish {id : Ident} {s : State} (h : EncProgress id (digitCount id) s) :
    ∃ t, encStep s = .next t ∧ EncEnded id t := by
  have pos := h.pos
  have bounds := digitCount_bounds id
  have enabled : s.encFinishEnabled = true := by
    refine (encFinishEnabled_iff s).mpr ⟨h.busy, ?_, fun empty => ?_⟩
    · rw [h.rest, shiftDigits_eq_zero_iff]
      exact (digitCount_spec id).1
    · rw [empty] at pos
      simp at pos
      omega
  refine ⟨s.publishString, ?_, rfl, rfl, h.working.publishString enabled h.inv.pos_le⟩
  rw [encStep_of_encFinishEnabled enabled, encFinish_of_slot s h.inv.pos_le]

/-- A turn of another agent that is no `RESET` and no wait leaves a busy encoder alone (R52,
R70). -/
theorem turnOf_sameEnc_of_busy {m : Move} {s : State} (leaves : m.leavesCommands = true)
    (other : m ≠ .enc) (busy : s.e_busy = true) : ∃ t, turnOf m s = .next t ∧ SameEnc s t := by
  cases m with
  | present | withdraw => exact ⟨_, rfl, ⟨rfl, rfl, rfl, rfl, rfl, rfl, rfl⟩⟩
  | dec => exact ⟨_, rfl, decStep_sameEnc s⟩
  | accept =>
    obtain ⟨t, next⟩ := acceptStep_answers s
    refine ⟨t, next, ?_⟩
    rcases acceptStep_cases next with rfl | ⟨port, cmd, -, run⟩
    · exact SameEnc.refl t
    · have notAccepted : (!opcodeBit cmd && !(s.withHost port s.schedule).e_busy) = false := by
        rw [show (s.withHost port s.schedule).e_busy = true from busy, Bool.not_true,
          Bool.and_false]
      exact (sameEnc_withHost _ _ s).trans (exec_sameEnc notAccepted run)
  | enc => exact absurd rfl other
  | reset | waitEnc | waitDec => cases leaves

/-- Along any turns but `RESET` and waits the command has made as many digits as `ENC` had turns. -/
theorem EncProgress.after_turns {id : Ident} {turns : List Move}
    (leave : ∀ m, m ∈ turns → m.leavesCommands = true) {k : Nat} {s : State}
    (h : EncProgress id k s)
    (within : k + turns.count .enc ≤ digitCount id) :
    ∃ u, runTurns turns s = .next u ∧ EncProgress id (k + turns.count .enc) u := by
  induction turns generalizing k s with
  | nil => exact ⟨s, rfl, h⟩
  | cons m turns ih =>
    obtain ⟨leaves, leaveRest⟩ := List.forall_mem_cons.mp leave
    by_cases enc : m = .enc
    · subst enc
      rw [List.count_cons_self, Nat.add_comm _ 1, ← Nat.add_assoc] at within ⊢
      obtain ⟨t, next, h⟩ := h.digit (by omega)
      rw [runTurns_enc_of_next next]
      exact ih leaveRest h within
    · rw [List.count_cons_of_ne enc] at within ⊢
      obtain ⟨t, next, same⟩ := turnOf_sameEnc_of_busy leaves enc h.busy
      rw [runTurns_cons_of_next next]
      exact ih leaveRest (h.of_sameEnc same) within

/-- One more turn of `ENC` than there are digits ends the command. -/
theorem EncProgress.ends_after_turns {id : Ident} {turns : List Move}
    (leave : ∀ m, m ∈ turns → m.leavesCommands = true) (all : turns.count .enc = digitCount id)
    {s : State} (h : EncProgress id 0 s) :
    ∃ u, runTurns (turns ++ [.enc]) s = .next u ∧ EncEnded id u := by
  obtain ⟨t, run, h⟩ := h.after_turns leave (by omega)
  rw [Nat.zero_add, all] at h
  obtain ⟨u, next, ended⟩ := h.finish
  refine ⟨u, ?_, ended⟩
  rw [runTurns_append, run, andThen_next, runTurns_enc_of_next next, runTurns_nil]

/-- Settles O26: the progress of the command is unchanged by the other turns, and the last turn of
`ENC` finds all digits stored. -/
theorem acceptedEncodeEndsWithItsResult : Obligations.AcceptedEncodeEndsWithItsResult := by
  intro ignored id s turns idle leave all
  have leave' : ∀ m, m ∈ turns ++ [Move.enc] → m.leavesCommands = true := by
    simpa [or_imp, forall_and] using ⟨leave, rfl⟩
  have fresh := (encProgress_encAccept id s).of_sameEnc (sameEnc_withSchedule [] _)
  obtain ⟨u, run, ended⟩ := fresh.ends_after_turns leave all
  refine ⟨_, u, exec_encode_of_idle ignored id idle, ?_, runTurns_schedule leave' run, ended.idle,
    ended.done, ?_, ?_⟩
  · rw [← run, ← runSteps_turns leave', List.length_append, List.length_singleton]
  · rw [ended.result]
  · rw [ended.result]

theorem leavesCommands_of_mem_replicate {m : Move} (leaves : m.leavesCommands = true) (k : Nat) :
    ∀ m', m' ∈ List.replicate k m → m'.leavesCommands = true :=
  fun _ hm => List.eq_of_mem_replicate hm ▸ leaves

theorem runSteps_replicate {m : Move} (leaves : m.leavesCommands = true) (k : Nat) (s : State) :
    runSteps k (s.withSchedule (List.replicate k m)) =
      runTurns (List.replicate k m) (s.withSchedule []) := by
  simpa using runSteps_turns (leavesCommands_of_mem_replicate leaves k) s

/-- Turns of an idle encoder change nothing (R9). -/
theorem runTurns_enc_of_idle {s : State} (idle : s.e_busy = false) (k : Nat) :
    runTurns (List.replicate k .enc) s = .next s := by
  induction k with
  | zero => rfl
  | succ k ih => rw [List.replicate_succ, runTurns_enc_of_next (encStep_of_idle idle), ih]

/-- Settles O28: up to the digit count the turns store digits, the next one ends the command, and
then the encoder is idle. -/
theorem encodeTakesOneStepPerDigitAndOneToFinish :
    Obligations.EncodeTakesOneStepPerDigitAndOneToFinish := by
  intro ignored id s k idle
  have fresh := (encProgress_encAccept id s).of_sameEnc (sameEnc_withSchedule [] _)
  have leave := leavesCommands_of_mem_replicate (m := .enc) rfl
  by_cases within : k ≤ digitCount id
  · obtain ⟨u, run, h⟩ := fresh.after_turns (leave k) (by simpa using within)
    simp only [List.count_replicate_self, Nat.zero_add] at h
    refine ⟨_, u, exec_encode_of_idle ignored id idle, (runSteps_replicate rfl k _).trans run,
      fun _ => ⟨h.busy, h.notDone, by have := h.pos; omega, h.rest, (h.inv.blank h.notDone).1⟩,
      fun beyond => absurd within (Nat.not_le.mpr beyond)⟩
  · obtain ⟨u, run, ended⟩ := fresh.ends_after_turns (leave (digitCount id)) (by simp)
    rw [← List.replicate_succ'] at run
    obtain ⟨j, rfl⟩ := Nat.exists_eq_add_of_lt (Nat.not_le.mp within)
    refine ⟨_, u, exec_encode_of_idle ignored id idle, ?_, fun h => absurd h within,
      fun _ => ⟨ended.idle, ended.done, (runSteps_replicate rfl _ _).trans run⟩⟩
    rw [runSteps_replicate rfl, Nat.add_right_comm, List.replicate_add, runTurns_append, run,
      andThen_next, runTurns_enc_of_idle ended.idle]

end Sys2Proof.Machine
end

section
/-! An accepted `DECODE` under any interleaving: its progress character by character, and its end
(41_decode.md R107, R108). -/

namespace Sys2Proof.Machine

theorem decodeSteps_of_lengthInvalid {slen : Len} (invalid : lengthInvalid slen = true)
    (str : Buffer) :
    decodeSteps slen str = 1 :=
  if_pos invalid

theorem decodeSteps_of_valid {slen : Len} (valid : lengthInvalid slen = false) (str : Buffer) :
    decodeSteps slen str =
      ((List.range slen.toNat).find? fun k => charInvalid (readByte str k)).getD
        slen.toNat + 1 := by
  rw [decodeSteps, valid]
  rfl

/-- A first invalid character at index `k` ends the command in `k + 1` steps (R107). -/
theorem decodeSteps_of_first_invalid {slen : Len} {str : Buffer}
    (valid : lengthInvalid slen = false)
    {k : Nat} (within : k < slen.toNat) (bad : charInvalid (readByte str k) = true)
    (before : ∀ j, j < k → isAlphaChar (readByte str j) = true) : decodeSteps slen str = k + 1 := by
  have found : (List.range slen.toNat).find? (fun k => charInvalid (readByte str k)) = some k :=
    List.find?_range_eq_some.mpr
      ⟨bad, List.mem_range.mpr within, fun j hj => by simp [charInvalid_eq_not, before j hj]⟩
  rw [decodeSteps_of_valid valid, found, Option.getD_some]

/-- A string without invalid characters takes one step for each and one to finish (R107). -/
theorem decodeSteps_of_all_valid {slen : Len} {str : Buffer} (valid : lengthInvalid slen = false)
    (chars : ∀ j, j < slen.toNat → isAlphaChar (readByte str j) = true) :
    decodeSteps slen str = slen.toNat + 1 := by
  have none : (List.range slen.toNat).find? (fun k => charInvalid (readByte str k)) = none := by
    simpa [charInvalid_eq_not] using chars
  rw [decodeSteps_of_valid valid, none, Option.getD_none]

/-- A string of valid length takes more steps than it has valid characters in front. -/
theorem lt_decodeSteps {slen : Len} {str : Buffer} (valid : lengthInvalid slen = false) {k : Nat}
    (within : k ≤ slen.toNat) (before : ∀ j, j < k → isAlphaChar (readByte str j) = true) :
    k < decodeSteps slen str := by
  rw [decodeSteps_of_valid valid, Nat.lt_succ_iff]
  cases found : (List.range slen.toNat).find? fun k => charInvalid (readByte str k) with
  | none => exact within
  | some j =>
    refine Nat.not_lt.mp fun early => ?_
    have bad := List.find?_some found
    rw [charInvalid_eq_not, before j early] at bad
    cases bad

/-- At most 12 steps follow an accept (R107). -/
theorem decodeSteps_le (slen : Len) (str : Buffer) : decodeSteps slen str ≤ 12 := by
  cases valid : lengthInvalid slen with
  | true =>
    rw [decodeSteps_of_lengthInvalid valid]
    decide
  | false =>
    have := ((lengthInvalid_eq_false_iff slen).mp valid).2
    rw [decodeSteps_of_valid valid]
    cases found : (List.range slen.toNat).find? fun k => charInvalid (readByte str k) with
    | none =>
      rw [Option.getD_none]
      omega
    | some j =>
      have := List.mem_range.mp (List.mem_of_find?_eq_some found)
      rw [Option.getD_some]
      omega

/-- A command `DECODE slen str` in progress with `k` characters folded in. -/
structure DecProgress (slen : Len) (str : Buffer) (k : Nat) (s : State) : Prop where
  inv : DecInv s
  busy : s.d_busy = true
  len : s.d_len = slen
  chars : s.d_in = str
  pos : s.d_pos.toNat = k

/-- A command `DECODE slen str` has ended. -/
structure DecEnded (slen : Len) (str : Buffer) (s : State) : Prop where
  idle : s.d_busy = false
  done : s.d_done = true
  outcome : (s.d_err, s.d_cause, s.d_val) = (decodeResult slen str).outcome

theorem decProgress_decAccept (slen : Len) (str : Buffer) (s : State) :
    DecProgress slen str 0 (s.decAccept slen str) :=
  ⟨decInv_decAccept slen str s, rfl, rfl, rfl, rfl⟩

theorem DecProgress.of_sameDec {slen : Len} {str : Buffer} {k : Nat} {s t : State}
    (h : DecProgress slen str k s) (same : SameDec s t) : DecProgress slen str k t :=
  ⟨h.inv.of_sameDec same, same.d_busy ▸ h.busy, same.d_len ▸ h.len, same.d_in ▸ h.chars,
    same.d_pos ▸ h.pos⟩

theorem DecProgress.notDone {slen : Len} {str : Buffer} {k : Nat} {s : State}
    (h : DecProgress slen str k s) : s.d_done = false :=
  Bool.eq_false_iff.mpr fun done => h.inv.exclusive ⟨h.busy, done⟩

/-- A command that was in progress and is done has ended with its outcome. -/
theorem DecProgress.ended {slen : Len} {str : Buffer} {k : Nat} {s : State}
    (h : DecProgress slen str k s) (idle : (decStep s).d_busy = false)
    (done : (decStep s).d_done = true) : DecEnded slen str (decStep s) := by
  obtain ⟨len, chars⟩ := decStep_operands s
  refine ⟨idle, done, ?_⟩
  rw [h.inv.after_decStep.result done, len, chars, h.len, h.chars]

/-- A turn that folds a character in leaves the command one character further (R103). -/
theorem DecProgress.fold {slen : Len} {str : Buffer} {k : Nat} {s : State}
    (h : DecProgress slen str k s) (enabled : s.charEnabled = true)
    (good : charInvalid s.nextChar = false) : DecProgress slen str (k + 1) s.foldChar := by
  obtain ⟨-, -, pos_lt⟩ := (charEnabled_iff s).mp enabled
  exact ⟨h.inv.foldChar enabled good, h.busy, h.len, h.chars,
    by rw [foldChar_pos_toNat pos_lt, h.pos]⟩

/-- The characters folded in are valid, so a string has more steps than these. -/
theorem DecProgress.lt_decodeSteps {slen : Len} {str : Buffer} {k : Nat} {s : State}
    (h : DecProgress slen str k s) : k < decodeSteps slen str := by
  obtain ⟨inv, busy, rfl, rfl, rfl⟩ := h
  cases valid : lengthInvalid s.d_len with
  | true =>
    rw [decodeSteps_of_lengthInvalid valid, (inv.started busy valid).1]
    decide
  | false =>
    obtain ⟨pos_le, looked, -⟩ := inv.folded busy valid
    exact Machine.lt_decodeSteps valid (BitVec.le_def.mp pos_le) looked

/-- A turn that ends the command is the last of the steps the rule counts (R107). -/
theorem DecProgress.count_of_end {slen : Len} {str : Buffer} {k : Nat} {s : State}
    (h : DecProgress slen str k s)
    (last : s.lenFailEnabled = true ∨ (s.charEnabled = true ∧ charInvalid s.nextChar = true) ∨
      s.decFinishEnabled = true) : decodeSteps slen str = k + 1 := by
  obtain ⟨inv, busy, rfl, rfl, rfl⟩ := h
  rcases last with enabled | ⟨enabled, bad⟩ | enabled
  · obtain ⟨-, invalid⟩ := (lenFailEnabled_iff s).mp enabled
    rw [decodeSteps_of_lengthInvalid invalid, (inv.started busy invalid).1]
    rfl
  · obtain ⟨-, valid, pos_lt⟩ := (charEnabled_iff s).mp enabled
    obtain ⟨-, looked, -⟩ := inv.folded busy valid
    exact decodeSteps_of_first_invalid valid pos_lt bad looked
  · obtain ⟨-, valid, atEnd⟩ := (decFinishEnabled_iff s).mp enabled
    obtain ⟨-, looked, -⟩ := inv.folded busy valid
    rw [decodeSteps_of_all_valid valid (atEnd ▸ looked), atEnd]

/-- A turn of `DEC` folds in one more character of the command, or ends it at the step the rule
counts (R107). -/
theorem DecProgress.after_decStep {slen : Len} {str : Buffer} {k : Nat} {s : State}
    (h : DecProgress slen str k s) :
    DecProgress slen str (k + 1) (decStep s) ∨
      (DecEnded slen str (decStep s) ∧ decodeSteps slen str = k + 1) := by
  rcases decStep_cases s with ⟨busy, invalid, eq⟩ | ⟨enabled, bad, eq⟩ | ⟨enabled, good, eq⟩ |
    ⟨enabled, eq⟩ | ⟨disabled, -⟩
  · have enabled := (lenFailEnabled_iff s).mpr ⟨busy, invalid⟩
    exact .inr ⟨h.ended (by simp [eq]) (by simp [eq]), h.count_of_end (.inl enabled)⟩
  · exact .inr ⟨h.ended (by simp [eq]) (by simp [eq]), h.count_of_end (.inr (.inl ⟨enabled, bad⟩))⟩
  · rw [eq]
    exact .inl (h.fold enabled good)
  · exact .inr ⟨h.ended (by simp [eq]) (by simp [eq]), h.count_of_end (.inr (.inr enabled))⟩
  · rw [h.inv.decEnabled_of_busy h.busy] at disabled
    cases disabled

/-- Before the last step the command goes on. -/
theorem DecProgress.next {slen : Len} {str : Buffer} {k : Nat} {s : State}
    (h : DecProgress slen str k s) (more : k + 1 < decodeSteps slen str) :
    DecProgress slen str (k + 1) (decStep s) :=
  h.after_decStep.resolve_right fun ended => by omega

/-- The last step ends the command: it cannot go on past its steps. -/
theorem DecProgress.finish {slen : Len} {str : Buffer} {k : Nat} {s : State}
    (h : DecProgress slen str k s) (last : k + 1 = decodeSteps slen str) :
    DecEnded slen str (decStep s) := by
  rcases h.after_decStep with further | ⟨ended, -⟩
  · have := further.lt_decodeSteps
    omega
  · exact ended

/-- A turn of another agent that is no `RESET` and no wait leaves a busy decoder alone, and does not
stop (R52, R70). -/
theorem turnOf_sameDec_of_busy {m : Move} {s : State} (leaves : m.leavesCommands = true)
    (other : m ≠ .dec) (busy : s.d_busy = true) (inv : EncInv s) :
    ∃ t, turnOf m s = .next t ∧ SameDec s t ∧ EncInv t := by
  cases m with
  | present | withdraw =>
    exact ⟨_, rfl, ⟨rfl, rfl, rfl, rfl, rfl, rfl, rfl, rfl, rfl⟩,
      inv.of_sameEnc ⟨rfl, rfl, rfl, rfl, rfl, rfl, rfl⟩⟩
  | enc =>
    obtain ⟨t, next⟩ := inv.encStep_answers
    exact ⟨t, next, encStep_sameDec next, inv.after_encStep next⟩
  | accept =>
    obtain ⟨t, next⟩ := acceptStep_answers s
    refine ⟨t, next, ?_⟩
    rcases acceptStep_cases next with rfl | ⟨port, cmd, -, run⟩
    · exact ⟨SameDec.refl t, inv⟩
    · have notAccepted : (opcodeBit cmd && !(s.withHost port s.schedule).d_busy) = false := by
        rw [show (s.withHost port s.schedule).d_busy = true from busy, Bool.not_true,
          Bool.and_false]
      exact ⟨(sameDec_withHost _ _ s).trans (exec_sameDec notAccepted run),
        (inv.of_sameEnc (sameEnc_withHost _ _ s)).after_exec run⟩
  | dec => exact absurd rfl other
  | reset | waitEnc | waitDec => cases leaves

/-- Along any turns but `RESET` and waits the command has taken as many steps as `DEC` had turns. -/
theorem DecProgress.after_turns {slen : Len} {str : Buffer} {turns : List Move}
    (leave : ∀ m, m ∈ turns → m.leavesCommands = true) {k : Nat} {s : State}
    (h : DecProgress slen str k s) (inv : EncInv s)
    (within : k + turns.count .dec < decodeSteps slen str) :
    ∃ u, runTurns turns s = .next u ∧ DecProgress slen str (k + turns.count .dec) u := by
  induction turns generalizing k s with
  | nil => exact ⟨s, rfl, h⟩
  | cons m turns ih =>
    obtain ⟨leaves, leaveRest⟩ := List.forall_mem_cons.mp leave
    by_cases dec : m = .dec
    · subst dec
      rw [List.count_cons_self, Nat.add_comm _ 1, ← Nat.add_assoc] at within ⊢
      rw [runTurns_cons_of_next (turnOf_dec s)]
      exact ih leaveRest (h.next (by omega)) (inv.of_sameEnc (decStep_sameEnc s)) within
    · rw [List.count_cons_of_ne dec] at within ⊢
      obtain ⟨t, next, same, inv⟩ := turnOf_sameDec_of_busy leaves dec h.busy inv
      rw [runTurns_cons_of_next next]
      exact ih leaveRest (h.of_sameDec same) inv within

/-- Settles O27: the progress of the command is unchanged by the other turns, and the last turn of
`DEC` is the last of its steps. -/
theorem acceptedDecodeEndsWithItsOutcome : Obligations.AcceptedDecodeEndsWithItsOutcome := by
  intro slen str s turns idle inv leave all
  have leave' : ∀ m, m ∈ turns ++ [Move.dec] → m.leavesCommands = true := by
    simpa [or_imp, forall_and] using ⟨leave, rfl⟩
  have fresh := (decProgress_decAccept slen str s).of_sameDec (sameDec_withSchedule [] _)
  have inv' : EncInv ((s.decAccept slen str).withSchedule []) :=
    inv.of_sameEnc ⟨rfl, rfl, rfl, rfl, rfl, rfl, rfl⟩
  obtain ⟨t, run, h⟩ := fresh.after_turns leave inv' (by omega)
  have ended : DecEnded slen str (decStep t) := h.finish (by omega)
  have run' : runTurns (turns ++ [.dec]) ((s.decAccept slen str).withSchedule []) =
      .next (decStep t) := by
    rw [runTurns_append, run, andThen_next, runTurns_cons_of_next (turnOf_dec t), runTurns_nil]
  refine ⟨_, decStep t, exec_decode_of_idle slen str idle, ?_, runTurns_schedule leave' run',
    ended.idle, ended.done, ended.outcome⟩
  rw [← run', ← runSteps_turns leave', List.length_append, List.length_singleton]

theorem runTurns_replicate_dec (k : Nat) (s : State) :
    runTurns (List.replicate k .dec) s = .next (decStep^[k] s) := by
  induction k generalizing s with
  | zero => rfl
  | succ k ih =>
    rw [List.replicate_succ, runTurns_cons_of_next (turnOf_dec s), ih, Function.iterate_succ_apply]

/-- Turns of `DEC` alone take the command one step further each. -/
theorem DecProgress.iterate {slen : Len} {str : Buffer} {s : State} (h : DecProgress slen str 0 s)
    {k : Nat} (within : k < decodeSteps slen str) : DecProgress slen str k (decStep^[k] s) := by
  induction k with
  | zero => exact h
  | succ k ih =>
    rw [Function.iterate_succ_apply']
    exact (ih (by omega)).next within

/-- As many turns as the rule counts end the command. -/
theorem DecProgress.iterate_ended {slen : Len} {str : Buffer} {s : State}
    (h : DecProgress slen str 0 s) : DecEnded slen str (decStep^[decodeSteps slen str] s) := by
  obtain ⟨k, last⟩ := Nat.exists_eq_add_of_lt h.lt_decodeSteps
  rw [Nat.zero_add] at last
  rw [last, Function.iterate_succ_apply']
  exact (h.iterate (by omega)).finish last.symm

/-- Settles O29: before the last step the decoder is in progress; after it the unit is idle, and
further turns change nothing. -/
theorem decodeTakesTheStepsOfItsString : Obligations.DecodeTakesTheStepsOfItsString := by
  intro slen str s k idle
  have fresh := (decProgress_decAccept slen str s).of_sameDec (sameDec_withSchedule [] _)
  have run : ∀ j, runSteps j ((s.decAccept slen str).withSchedule (List.replicate j .dec)) =
      .next (decStep^[j] ((s.decAccept slen str).withSchedule [])) := fun j =>
    (runSteps_replicate rfl j _).trans (runTurns_replicate_dec j _)
  refine ⟨_, _, decodeSteps_le slen str, exec_decode_of_idle slen str idle, run k, fun within => ?_,
    fun beyond => ?_⟩
  · have h := fresh.iterate within
    exact ⟨h.busy, h.notDone, h.inv.d_err_eq_false_of_busy h.busy, h.inv.blank h.notDone⟩
  · obtain ⟨j, rfl⟩ := Nat.exists_eq_add_of_le' beyond
    have ended := fresh.iterate_ended
    rw [Function.iterate_add_apply, Function.iterate_fixed (decStep_of_idle ended.idle)]
    exact ⟨ended.idle, ended.done, run _⟩

end Sys2Proof.Machine
end

section
/-! A block left alone: a measure of the work that is left, which every step lowers until both units
are idle and the port is empty (70_reset_and_hazards.md R148, R150, R151). -/

namespace Sys2Proof.Machine

/-- The turns unit `ENC` still needs, at most: one for each free slot, and one to finish. -/
def State.encWork (s : State) : Nat := if s.e_busy then s.e_pos.toNat + 1 else 0

/-- The turns unit `DEC` still needs, at most: one for each character, and one to finish. -/
def State.decWork (s : State) : Nat :=
  if s.d_busy then
    if lengthInvalid s.d_len then 1 else s.d_len.toNat - s.d_pos.toNat + 1
  else 0

/-- The steps a presented word still needs: its accept, and at most 12 turns of its unit. -/
def State.portWork (s : State) : Nat := if s.cmd_port.isSome then 13 else 0

/-- All the work that is left. -/
def State.work (s : State) : Nat := s.encWork + s.decWork + s.portWork

theorem SameEnc.encWork_eq {s t : State} (h : SameEnc s t) : t.encWork = s.encWork := by
  rw [State.encWork, State.encWork, h.e_busy, h.e_pos]

theorem SameDec.decWork_eq {s t : State} (h : SameDec s t) : t.decWork = s.decWork := by
  rw [State.decWork, State.decWork, h.d_busy, h.d_len, h.d_pos]

theorem portWork_congr {s t : State} (h : t.cmd_port = s.cmd_port) : t.portWork = s.portWork := by
  rw [State.portWork, State.portWork, h]

theorem encWork_of_busy {s : State} (busy : s.e_busy = true) : s.encWork = s.e_pos.toNat + 1 :=
  if_pos busy

theorem encWork_of_idle {s : State} (idle : s.e_busy = false) : s.encWork = 0 := by
  rw [State.encWork, idle]
  rfl

theorem decWork_of_idle {s : State} (idle : s.d_busy = false) : s.decWork = 0 := by
  rw [State.decWork, idle]
  rfl

theorem decWork_of_valid {s : State} (busy : s.d_busy = true)
    (valid : lengthInvalid s.d_len = false) :
    s.decWork = s.d_len.toNat - s.d_pos.toNat + 1 := by
  rw [State.decWork, busy, valid]
  rfl

theorem decWork_pos_of_busy {s : State} (busy : s.d_busy = true) : 0 < s.decWork := by
  cases valid : lengthInvalid s.d_len with
  | true => simp [State.decWork, busy, valid]
  | false => simp [decWork_of_valid busy valid]

/-- An accepted word leaves at most 12 turns to its unit (R84, R107, R151). -/
theorem decWork_le (s : State) : s.decWork ≤ 12 := by
  cases busy : s.d_busy with
  | false => simp [decWork_of_idle busy]
  | true =>
    cases valid : lengthInvalid s.d_len with
    | true => simp [State.decWork, busy, valid]
    | false =>
      have := ((lengthInvalid_eq_false_iff _).mp valid).2
      rw [decWork_of_valid busy valid]
      omega

theorem EncInv.encWork_le {s : State} (h : EncInv s) : s.encWork ≤ 12 := by
  have := h.pos_le
  cases busy : s.e_busy with
  | false => simp [encWork_of_idle busy]
  | true =>
    rw [encWork_of_busy busy]
    omega

/-- A turn of a busy encoder lowers what is left to it. -/
theorem encWork_after_encStep {s t : State} (busy : s.e_busy = true) (next : encStep s = .next t) :
    t.encWork < s.encWork := by
  rw [encWork_of_busy busy]
  rcases encStep_cases next with ⟨-, pos_ge, -, rfl⟩ | ⟨-, -, -, rfl⟩ | ⟨disabled, -⟩
  · have busy' : s.putDigit.e_busy = true := busy
    rw [encWork_of_busy busy', State.putDigit_e_pos, pos_sub_one_toNat pos_ge]
    omega
  · rw [encWork_of_idle (State.publishString_e_busy s)]
    omega
  · rw [encEnabled_of_busy busy] at disabled
    cases disabled

/-- A turn of a busy decoder lowers what is left to it. -/
theorem DecInv.decWork_after_decStep {s : State} (h : DecInv s) (busy : s.d_busy = true) :
    (decStep s).decWork < s.decWork := by
  have pos := decWork_pos_of_busy busy
  rcases decStep_cases s with ⟨-, -, eq⟩ | ⟨-, -, eq⟩ | ⟨enabled, -, eq⟩ | ⟨-, eq⟩ | ⟨disabled, -⟩
  · rwa [eq, decWork_of_idle (State.raiseInvalidShiny_d_busy _ s)]
  · rwa [eq, decWork_of_idle (State.raiseInvalidShiny_d_busy _ s)]
  · obtain ⟨-, valid, pos_lt⟩ := (charEnabled_iff s).mp enabled
    have busy' : s.foldChar.d_busy = true := busy
    have valid' : lengthInvalid s.foldChar.d_len = false := valid
    rw [eq, decWork_of_valid busy' valid', decWork_of_valid busy valid, foldChar_pos_toNat pos_lt,
      State.foldChar_d_len]
    omega
  · rwa [eq, decWork_of_idle (State.publishValue_d_busy s)]
  · rw [h.decEnabled_of_busy busy] at disabled
    cases disabled

/-- An accept turns a presented word into less work for its unit. -/
theorem work_after_accept {s : State} (acceptable : s.acceptable = true) :
    ∃ t, acceptStep s = .next t ∧ t.schedule = s.schedule ∧ t.work < s.work := by
  cases port : s.cmd_port with
  | none =>
    rw [acceptable_eq_false_of_port_none port] at acceptable
    cases acceptable
  | some cmd =>
    rw [acceptable_eq_cmdReady port, cmdReady_eq] at acceptable
    have presented : s.portWork = 13 := by rw [State.portWork, port]; rfl
    have less : ∀ t : State,
      t.cmd_port = none → t.encWork + t.decWork ≤ s.encWork + s.decWork + 12 →
        t.work < s.work := by
      intro t taken bound
      have empty : t.portWork = 0 := by rw [State.portWork, taken]; rfl
      rw [State.work, State.work, empty, presented]
      omega
    cases opcode : cmd.getLsbD 92 with
    | false =>
      rw [opcode] at acceptable
      refine ⟨_, acceptStep_of_encode port opcode (by simpa using acceptable), rfl, less _ rfl ?_⟩
      have fresh := (encInv_encAccept (cmd.extractLsb' 0 64) (s.withPort none)).encWork_le
      have same : ((s.withPort none).encAccept (cmd.extractLsb' 0 64)).decWork = s.decWork := rfl
      omega
    | true =>
      rw [opcode] at acceptable
      refine ⟨_, acceptStep_of_decode port opcode (by simpa using acceptable), rfl, less _ rfl ?_⟩
      have fresh := decWork_le ((s.withPort none).decAccept (cmd.extractLsb' 88 4)
        (unpackChars (cmd.extractLsb' 0 88)))
      have same : ((s.withPort none).decAccept (cmd.extractLsb' 88 4)
        (unpackChars (cmd.extractLsb' 0 88))).encWork = s.encWork := rfl
      omega

/-- A turn left to the units lowers the work while one of them is busy. -/
theorem Inv.work_after_unitTurn {s : State} (h : Inv s) (busy : s.quiescent = false) :
    ∃ t, unitTurn s = .next t ∧ t.work < s.work := by
  cases encBusy : s.e_busy with
  | true =>
    obtain ⟨t, next⟩ := h.enc.encStep_answers
    refine ⟨t, (unitTurn_of_encEnabled (encEnabled_of_busy encBusy)).trans next, ?_⟩
    rw [State.work, State.work, (encStep_sameDec next).decWork_eq,
      portWork_congr (encStep_host next).2]
    have := encWork_after_encStep encBusy next
    omega
  | false =>
    have decBusy : s.d_busy = true := by simpa [State.quiescent, encBusy] using busy
    refine ⟨_, unitTurn_of_not_encEnabled (encEnabled_eq_false_of_idle encBusy), ?_⟩
    rw [State.work, State.work, (decStep_sameEnc s).encWork_eq, portWork_congr (decStep_host s).2]
    have := h.dec.decWork_after_decStep decBusy
    omega

/-- The block is at rest: no unit is busy, nothing is presented and no turn is laid down. -/
structure AtRest (s : State) : Prop where
  quiet : s.quiescent = true
  port : s.cmd_port = none
  free : s.schedule = []

/-- A block at rest stays as it is (R148). -/
theorem AtRest.runSteps {s : State} (h : AtRest s) (k : Nat) : runSteps k s = .next s := by
  obtain ⟨encIdle, decIdle⟩ := s.quiescent_iff.mp h.quiet
  have same : step s = .next s := by
    rw [step_free_of_not_acceptable h.free (acceptable_eq_false_of_port_none h.port),
      unitTurn_of_not_encEnabled (encEnabled_eq_false_of_idle encIdle), decStep_of_idle decIdle]
  induction k with
  | zero => rfl
  | succ k ih => rw [runSteps_succ_of_next same, ih]

/-- With no turn laid down, a step lowers the work, or the block is at rest (R150). -/
theorem Inv.work_after_free_step {s : State} (h : Inv s) (free : s.schedule = []) :
    AtRest s ∨ ∃ t, step s = .next t ∧ t.schedule = [] ∧ t.work < s.work := by
  cases acceptable : s.acceptable with
  | true =>
    obtain ⟨t, next, turns, less⟩ := work_after_accept acceptable
    exact .inr ⟨t, (step_free_of_acceptable free acceptable).trans next, turns.trans free, less⟩
  | false =>
    cases quiet : s.quiescent with
    | true =>
      obtain ⟨encIdle, decIdle⟩ := s.quiescent_iff.mp quiet
      refine .inl ⟨quiet, ?_, free⟩
      cases port : s.cmd_port with
      | none => rfl
      | some cmd =>
        rw [acceptable_eq_cmdReady port, cmdReady_of_idle encIdle decIdle] at acceptable
        cases acceptable
    | false =>
      obtain ⟨t, next, less⟩ := h.work_after_unitTurn quiet
      exact .inr ⟨t, (step_free_of_not_acceptable free acceptable).trans next,
        (unitTurn_host next).1.trans free, less⟩

/-- As many steps as there is work bring the block to rest. -/
theorem Inv.comes_to_rest {s : State} (h : Inv s) (free : s.schedule = []) {n : Nat}
    (enough : s.work ≤ n) : ∃ u, runSteps n s = .next u ∧ AtRest u := by
  induction n generalizing s with
  | zero =>
    rcases h.work_after_free_step free with rest | ⟨t, -, -, less⟩
    · exact ⟨s, rfl, rest⟩
    · omega
  | succ n ih =>
    rcases h.work_after_free_step free with rest | ⟨t, next, free', less⟩
    · exact ⟨s, rest.runSteps _, rest⟩
    · rw [runSteps_succ_of_next next]
      exact ih (everyStepKeepsTheInvariant s t h next) free' (by omega)

/-- Settles O48: there is work for 12 turns of each unit, and for 13 steps with a presented word. -/
theorem blockBecomesQuiescent : Obligations.BlockBecomesQuiescent := by
  intro s h free
  have encWork := h.enc.encWork_le
  have decWork := decWork_le s
  have portWork : s.portWork ≤ 13 := by
    rw [State.portWork]
    split <;> omega
  obtain ⟨u, run, rest⟩ := h.comes_to_rest (n := 37) free (by rw [State.work]; omega)
  exact ⟨u, run, rest.quiet, rest.port,
    fun k => (runSteps_add_of_next run k).trans (rest.runSteps k)⟩

end Sys2Proof.Machine
end

section
/-! The round trip through both units with waits (30_encoding.md R67, R71; 41_decode.md R109). -/

namespace Sys2Proof.Machine

/-- With both units idle, presenting a command's word and taking the accept turn runs the
command. -/
theorem runTurns_issueTurns {s : State} (encIdle : s.e_busy = false) (decIdle : s.d_busy = false)
    (i : Instr) : runTurns (issueTurns i) s = exec i (s.withPort none) := by
  have ready := cmdReady_of_idle (s :=
    s.withPort (some (encodeWord i))) encIdle decIdle (encodeWord i)
  have accept : turnOf .accept (s.withPort (some (encodeWord i))) = exec i (s.withPort none) := by
    rw [turnOf_accept, acceptStep_of_ready rfl ready, decodeWord_encodeWord]
    rfl
  rw [issueTurns, runTurns_cons_of_next (turnOf_present _ s), runTurns, accept]
  cases exec i (s.withPort none) <;> rfl

/-- The same along a schedule, with the turns that come after. -/
theorem runSteps_issueTurns {s : State} (encIdle : s.e_busy = false) (decIdle : s.d_busy = false)
    (i : Instr) (rest : List Move) :
    runSteps 2 (s.withSchedule (issueTurns i ++ rest)) =
      exec i ((s.withSchedule rest).withPort none) := by
  have leave : ∀ m, m ∈ issueTurns i → m.leavesCommands = true := by
    simp [issueTurns, Move.leavesCommands]
  exact (runSteps_append_turns leave rest s).trans
    (runTurns_issueTurns (s := s.withSchedule rest) encIdle decIdle i)

/-- A wait for a set flag is over in one step (R67). -/
theorem runSteps_waitEnc_of_done {s : State} {rest : List Move}
    (turn : s.schedule = .waitEnc :: rest)
    (done : s.e_done = true) : runSteps 1 s = .next (s.withSchedule rest) :=
  runSteps_succ_of_next ((step_cons turn).trans (waitTurn_of_ready rest s done)) 0

theorem runSteps_waitDec_of_done {s : State} {rest : List Move}
    (turn : s.schedule = .waitDec :: rest)
    (done : s.d_done = true) : runSteps 1 s = .next (s.withSchedule rest) :=
  runSteps_succ_of_next ((step_cons turn).trans (waitTurn_of_ready rest s done)) 0

/-- While an `ENCODE` that is waited for is in progress, the unit takes the steps. -/
theorem EncProgress.step_waitEnc {id : Ident} {k : Nat} {s : State} {rest : List Move}
    (h : EncProgress id k s) (turn : s.schedule = .waitEnc :: rest) : step s = encStep s := by
  rw [step_waitEnc_of_not_done turn h.notDone, unitTurn_of_encEnabled (encEnabled_of_busy h.busy)]

/-- While a `DECODE` that is waited for is in progress beside an idle encoder, the unit takes the
steps. -/
theorem DecProgress.step_waitDec {slen : Len} {str : Buffer} {k : Nat} {s : State}
    {rest : List Move}
    (h : DecProgress slen str k s) (encIdle : s.e_busy = false)
    (turn : s.schedule = .waitDec :: rest) : step s = .next (decStep s) := by
  rw [step_waitDec_of_not_done turn h.notDone,
    unitTurn_of_not_encEnabled (encEnabled_eq_false_of_idle encIdle)]

/-- `WAIT E` with a command in progress: the encoder ends it, and the wait is over (R67). -/
theorem EncProgress.waitEnc_ends {id : Ident} {n k : Nat} {s : State} {rest : List Move}
    (h : EncProgress id k s) (left : k + n = digitCount id) (turn : s.schedule = .waitEnc :: rest) :
    ∃ j u, runSteps j s = .next u ∧ EncEnded id u ∧ SameDec s u ∧ u.schedule = rest := by
  have unit := h.step_waitEnc turn
  induction n generalizing k s with
  | zero =>
    obtain rfl : k = digitCount id := left
    obtain ⟨t, next, ended⟩ := h.finish
    have turn' : t.schedule = .waitEnc :: rest := (encStep_host next).1.trans turn
    refine ⟨1 + 1, t.withSchedule rest, ?_, ⟨ended.idle, ended.done, ended.result⟩,
      (encStep_sameDec next).trans (sameDec_withSchedule rest t), rfl⟩
    rw [runSteps_succ_of_next (unit.trans next), runSteps_waitEnc_of_done turn' ended.done]
  | succ n ih =>
    obtain ⟨t, next, h⟩ := h.digit (by omega)
    have turn' : t.schedule = .waitEnc :: rest := (encStep_host next).1.trans turn
    obtain ⟨j, u, run, ended, same, turns⟩ := ih h (by omega) turn' (h.step_waitEnc turn')
    refine ⟨j + 1, u, ?_, ended, (encStep_sameDec next).trans same, turns⟩
    rw [runSteps_succ_of_next (unit.trans next), run]

/-- `WAIT D` with a command in progress: the decoder ends it, and the wait is over (R67). -/
theorem DecProgress.waitDec_ends {slen : Len} {str : Buffer} {n k : Nat} {s : State}
    {rest : List Move} (h : DecProgress slen str k s) (left : k + 1 + n = decodeSteps slen str)
    (encIdle : s.e_busy = false) (turn : s.schedule = .waitDec :: rest) :
    ∃ j u, runSteps j s = .next u ∧ DecEnded slen str u ∧ u.schedule = rest := by
  have unit := h.step_waitDec encIdle turn
  have turn' : (decStep s).schedule = .waitDec :: rest := (decStep_host s).1.trans turn
  induction n generalizing k s with
  | zero =>
    have ended := h.finish left
    refine ⟨1 + 1, (decStep s).withSchedule rest, ?_, ⟨ended.idle, ended.done, ended.outcome⟩, rfl⟩
    rw [runSteps_succ_of_next unit, runSteps_waitDec_of_done turn' ended.done]
  | succ n ih =>
    have h := h.next (by omega)
    have encIdle' : (decStep s).e_busy = false := (decStep_sameEnc s).e_busy.symm.trans encIdle
    obtain ⟨j, u, run, ended, turns⟩ := ih h (by omega) encIdle' turn'
      (h.step_waitDec encIdle' turn') ((decStep_host _).1.trans turn')
    refine ⟨j + 1, u, ?_, ended, turns⟩
    rw [runSteps_succ_of_next unit, run]

/-- Issuing `ENCODE` and waiting for it leads to its result. -/
theorem runSteps_encode_and_wait {s : State} (encIdle : s.e_busy = false)
    (decIdle : s.d_busy = false)
    (id : Ident) : ∃ j u,
      runSteps j (s.withSchedule (issueTurns (encodeCommand id) ++ [.waitEnc])) = .next u ∧
      EncEnded id u ∧ u.d_busy = false ∧ u.schedule = [] := by
  have issued := (runSteps_issueTurns encIdle decIdle (encodeCommand id) [.waitEnc]).trans
    (exec_encode_of_idle (s := (s.withSchedule [.waitEnc]).withPort none) 0 id encIdle)
  obtain ⟨j, u, run, ended, same, turns⟩ :=
    (encProgress_encAccept id ((s.withSchedule [.waitEnc]).withPort none)).waitEnc_ends
      (Nat.zero_add _) rfl
  exact ⟨2 + j, u, (runSteps_add_of_next issued j).trans run, ended, same.d_busy.symm.trans decIdle,
    turns⟩

/-- Issuing `DECODE` and waiting for it leads to its outcome. -/
theorem runSteps_decode_and_wait {s : State} (encIdle : s.e_busy = false)
    (decIdle : s.d_busy = false)
    (slen : Len) (str : Buffer) : ∃ j u,
      runSteps j (s.withSchedule (issueTurns (.decode slen str) ++ [.waitDec])) = .next u ∧
      DecEnded slen str u ∧ u.schedule = [] := by
  have issued := (runSteps_issueTurns encIdle decIdle (.decode slen str) [.waitDec]).trans
    (exec_decode_of_idle (s := (s.withSchedule [.waitDec]).withPort none) slen str decIdle)
  have fresh := decProgress_decAccept slen str ((s.withSchedule [.waitDec]).withPort none)
  obtain ⟨n, left⟩ := Nat.exists_eq_add_of_le (Nat.succ_le_of_lt fresh.lt_decodeSteps)
  obtain ⟨j, u, run, ended, turns⟩ := fresh.waitDec_ends left.symm encIdle rfl
  exact ⟨2 + j, u, (runSteps_add_of_next issued j).trans run, ended, turns⟩

/-- Settles O35: the `DECODE` word made of the ports is that of the result, which `decode` reads
back. -/
theorem hardwareRoundTripReturnsTheIdentifier :
    Obligations.HardwareRoundTripReturnsTheIdentifier := by
  intro s id _ quiet
  obtain ⟨encIdle, decIdle⟩ := s.quiescent_iff.mp quiet
  obtain ⟨j, u, run, encEnded, decIdle', turns⟩ := runSteps_encode_and_wait encIdle decIdle id
  obtain ⟨k, v, run', decEnded, turns'⟩ :=
    runSteps_decode_and_wait encEnded.idle decIdle' u.e_len u.e_str
  have readBack : decodeResult u.e_len u.e_str = .ok id := by
    rw [← decodeUndoesEncode id (encodeResult id).str fun _ _ => rfl, encEnded.result]
  have outcome := decEnded.outcome
  rw [readBack] at outcome
  injection outcome with err outcome
  injection outcome with _ val
  exact ⟨j, k, u, v, run, turns, encEnded.done, run', turns', decEnded.done, err, val⟩

end Sys2Proof.Machine
end
